-- ==== Sys2Proof/Word.lean ====
section
/-! DEFINITION. The word types of the controller: the byte, the 10-bit transaction word (rule R56) and simulated
time in microseconds (rule R5). -/

namespace Sys2Proof

/-- A byte, bit 0 its least significant bit (rule R6). -/
abbrev Byte := BitVec 8

/-- A bus transaction as a 10-bit word: RS in bit 9, RW in bit 8, DB in bits 7:0 (rule R56). -/
abbrev BusWord := BitVec 10

/-- Simulated time, in microseconds: the spec's rational number (rule R5). `Config.check` and the invariant of
Safety.lean keep it non-negative. -/
abbrev Time := Rat

end Sys2Proof
end

