-- ==== Sys2Proof/Syntax.lean ====
section
/-! DEFINITION. The operations of the opcode table, one constructor per row. The operand fields carry the widths
of the table's fields (rules R59 to R68, R72), so every term is an instruction; the ignored bits of rule R69 are
no operands. -/

namespace Sys2Proof

/-- One row of spec/opcode_table.json each. -/
inductive Instr where
  /-- NULL: the command byte 0x00 (rules R68, R88). -/
  | null
  /-- CLEAR_DISPLAY (rules R60, R87). -/
  | clearDisplay
  /-- RETURN_HOME (rules R61, R86). -/
  | returnHome
  /-- ENTRY_MODE_SET: ID, S (rules R62, R85). -/
  | entryModeSet (id s : Bool)
  /-- DISPLAY_CONTROL: D, C, B (rules R63, R84). -/
  | displayControl (d c b : Bool)
  /-- CURSOR_DISPLAY_SHIFT: SC, RL (rules R64, R83). -/
  | cursorDisplayShift (sc rl : Bool)
  /-- FUNCTION_SET: DL, N, F (rules R65, R81). -/
  | functionSet (dl n f : Bool)
  /-- SET_CGRAM_ADDR: the 6-bit address (rules R66, R80). -/
  | setCgramAddr (a : BitVec 6)
  /-- SET_DDRAM_ADDR: the 7-bit address (rules R67, R79). -/
  | setDdramAddr (a : BitVec 7)
  /-- STATUS_READ: one control-channel read transaction (rule R95). -/
  | statusRead
  /-- DATA_WRITE: the logical byte (rule R92). -/
  | dataWrite (v : Byte)
  /-- DATA_READ: one data-channel read transaction (rule R94). -/
  | dataRead
  deriving DecidableEq, Repr

end Sys2Proof
end

