-- ==== Sys2Proof/Decode.lean ====
section
/-! DEFINITION. Decoding and encoding of the 10-bit transaction word (rules R56 to R69). Which logical operation a
transaction completes also depends on the state (rule R77): that part is Machine/Interface.lean. -/

namespace Sys2Proof

/-- Priority decoding of a command byte: the highest set bit selects, the bits below it are fields (rules R58 to
R68). The field positions are decision D1 (PRESUMED, log entry 15). -/
def decodeCommand (ir : Byte) : Instr :=
  if ir.getLsbD 7 then .setDdramAddr (ir.extractLsb' 0 7)
  else if ir.getLsbD 6 then .setCgramAddr (ir.extractLsb' 0 6)
  else if ir.getLsbD 5 then .functionSet (ir.getLsbD 4) (ir.getLsbD 3) (ir.getLsbD 2)
  else if ir.getLsbD 4 then .cursorDisplayShift (ir.getLsbD 3) (ir.getLsbD 2)
  else if ir.getLsbD 3 then .displayControl (ir.getLsbD 2) (ir.getLsbD 1) (ir.getLsbD 0)
  else if ir.getLsbD 2 then .entryModeSet (ir.getLsbD 1) (ir.getLsbD 0)
  else if ir.getLsbD 1 then .returnHome
  else if ir.getLsbD 0 then .clearDisplay
  else .null

/-- RS of a transaction word (rule R56): `true` is the data channel. -/
def busRs (w : BusWord) : Bool := w.getLsbD 9

/-- RW of a transaction word (rule R56): `true` is a read. -/
def busRw (w : BusWord) : Bool := w.getLsbD 8

/-- DB of a transaction word (rule R56). -/
def busDb (w : BusWord) : Byte := w.extractLsb' 0 8

/-- The transaction word of RS, RW and DB (rule R56). -/
def busWord (rs rw : Bool) (db : Byte) : BusWord :=
  BitVec.ofBool rs ++ BitVec.ofBool rw ++ db

/-- The operation of a transaction with this RS, RW and logical byte (rule R40). A read ignores the byte
(rule R69). -/
def decodeBus (rs rw : Bool) (db : Byte) : Instr :=
  match rs, rw with
  | false, false => decodeCommand db
  | false, true => .statusRead
  | true, false => .dataWrite db
  | true, true => .dataRead

/-- The operation of a transaction word: total, since every word selects one row (rule R59). -/
def decode (w : BusWord) : Instr :=
  decodeBus (busRs w) (busRw w) (busDb w)

/-- Why a sequence of bytes holds no transaction word. -/
inductive DecodeError where
  /-- Fewer than two bytes. -/
  | truncated
  /-- A bit above bit 9 is set: not one of the 1024 transaction words of rule R56. -/
  | notATransactionWord
  deriving DecidableEq, Repr

/-- A transaction word laid out in two bytes, the low byte first (DESIGN CHOICE, log entry 9). -/
def busBytes (w : BusWord) : List Byte :=
  [busDb w, (w.extractLsb' 8 2).zeroExtend 8]

/-- The decoder over bytes: the operation of the first word and the bytes after it, or the reason there is none. -/
def decodeBytes : List Byte → Except DecodeError (Instr × List Byte)
  | lo :: hi :: rest =>
    if hi.toNat < 4 then .ok (decode (hi.extractLsb' 0 2 ++ lo), rest) else .error .notATransactionWord
  | _ => .error .truncated

/-- What the decoder reads from a table word: bit 0 the least significant, the bits from `nbits` on zero. -/
def decodeTableWord (nbits w : Nat) : Option Instr :=
  let v := w % 2 ^ nbits
  if 65536 ≤ v then none
  else
    match decodeBytes [BitVec.ofNat 8 v, BitVec.ofNat 8 (v / 256)] with
    | .ok (i, _) => some i
    | .error _ => none

/-- The byte of a control-channel command, its ignored bits zero (rules R59, R75); of a data write, its byte; of a
read, zero, since its DB bits mean nothing. -/
def encodeByte : Instr → Byte
  | .null => 0x00
  | .clearDisplay => 0x01
  | .returnHome => 0x02
  | .entryModeSet id s => 0b000001#6 ++ BitVec.ofBool id ++ BitVec.ofBool s
  | .displayControl d c b => 0b00001#5 ++ BitVec.ofBool d ++ BitVec.ofBool c ++ BitVec.ofBool b
  | .cursorDisplayShift sc rl => 0b0001#4 ++ BitVec.ofBool sc ++ BitVec.ofBool rl ++ 0b00#2
  | .functionSet dl n f => 0b001#3 ++ BitVec.ofBool dl ++ BitVec.ofBool n ++ BitVec.ofBool f ++ 0b00#2
  | .setCgramAddr a => 0b01#2 ++ a
  | .setDdramAddr a => 0b1#1 ++ a
  | .statusRead => 0x00
  | .dataWrite v => v
  | .dataRead => 0x00

/-- RS of an operation (rule R40). -/
def encodeRs : Instr → Bool
  | .dataWrite _ => true
  | .dataRead => true
  | .null | .clearDisplay | .returnHome | .entryModeSet _ _ | .displayControl _ _ _ | .cursorDisplayShift _ _
  | .functionSet _ _ _ | .setCgramAddr _ | .setDdramAddr _ | .statusRead => false

/-- RW of an operation (rule R40). -/
def encodeRw : Instr → Bool
  | .statusRead => true
  | .dataRead => true
  | .null | .clearDisplay | .returnHome | .entryModeSet _ _ | .displayControl _ _ _ | .cursorDisplayShift _ _
  | .functionSet _ _ _ | .setCgramAddr _ | .setDdramAddr _ | .dataWrite _ => false

/-- The transaction word of an operation (rules R56, R59 and the opcode table). -/
def encode (i : Instr) : BusWord :=
  busWord (encodeRs i) (encodeRw i) (encodeByte i)

/-- The mnemonic of an operation's row in the opcode table. -/
def Instr.mnemonic : Instr → String
  | .null => "NULL"
  | .clearDisplay => "CLEAR_DISPLAY"
  | .returnHome => "RETURN_HOME"
  | .entryModeSet _ _ => "ENTRY_MODE_SET"
  | .displayControl _ _ _ => "DISPLAY_CONTROL"
  | .cursorDisplayShift _ _ => "CURSOR_DISPLAY_SHIFT"
  | .functionSet _ _ _ => "FUNCTION_SET"
  | .setCgramAddr _ => "SET_CGRAM_ADDR"
  | .setDdramAddr _ => "SET_DDRAM_ADDR"
  | .statusRead => "STATUS_READ"
  | .dataWrite _ => "DATA_WRITE"
  | .dataRead => "DATA_READ"

/-- A row of spec/opcode_table.json: a word `w` selects it when `w &&& mask = pattern`. -/
structure TableRow where
  mnemonic : String
  pattern : BusWord
  mask : BusWord
  deriving DecidableEq, Repr

/-- The rows of spec/opcode_table.json, as written there. -/
def opcodeTable : List TableRow :=
  [ ⟨"NULL", 0x000, 0x3FF⟩,
    ⟨"CLEAR_DISPLAY", 0x001, 0x3FF⟩,
    ⟨"RETURN_HOME", 0x002, 0x3FE⟩,
    ⟨"ENTRY_MODE_SET", 0x004, 0x3FC⟩,
    ⟨"DISPLAY_CONTROL", 0x008, 0x3F8⟩,
    ⟨"CURSOR_DISPLAY_SHIFT", 0x010, 0x3F0⟩,
    ⟨"FUNCTION_SET", 0x020, 0x3E0⟩,
    ⟨"SET_CGRAM_ADDR", 0x040, 0x3C0⟩,
    ⟨"SET_DDRAM_ADDR", 0x080, 0x380⟩,
    ⟨"STATUS_READ", 0x100, 0x300⟩,
    ⟨"DATA_WRITE", 0x200, 0x300⟩,
    ⟨"DATA_READ", 0x300, 0x300⟩ ]

/-- The mnemonics of the rows that a word selects. -/
def selectedRows (w : BusWord) : List String :=
  (opcodeTable.filter fun r => decide (w &&& r.mask = r.pattern)).map TableRow.mnemonic

end Sys2Proof
end

