-- ==== Sys2Proof/Config.lean ====
section
/-! DEFINITION. The implementation parameters of rule R5, fixed for the lifetime of one controller. They are the
fields of `Config`, so that a claim over all states is a claim over all parameter values (rule R158); the FONT
tables are a free function of the variant. -/

namespace Sys2Proof

/-- The parameters of rule R5, and the physical geometry that rule R131 checks at construction. -/
structure Config where
  /-- TIMING_FACTOR: multiplies every base delay, but not the blink period (rules R136, R140). -/
  timingFactor : Rat
  /-- T_SHORT (rule R137). -/
  tShort : Time
  /-- T_MEDIUM (rule R137). -/
  tMedium : Time
  /-- T_LONG (rule R137). -/
  tLong : Time
  /-- T_BLINK (rule R140). -/
  tBlink : Time
  /-- VARIANT: selects the font table and nothing else (rule R5, decision D34). -/
  variant : Nat
  /-- GLYPH_FULL_ROW: the row of the underline and of the block (rules R122, R123). -/
  glyphFullRow : Byte
  /-- DROPPED_READ_VALUE: what a dropped data read returns (rule R96). -/
  droppedReadValue : Byte
  /-- DDRAM_SIZE: the number of DDRAM cells (rules R14, R39). -/
  ddramSize : Nat
  /-- CGRAM_SIZE: the number of CGRAM cells (rules R15, R39). -/
  cgramSize : Nat
  /-- DISPLAY_RING: the positions of the display ring (rules R45, R116). -/
  displayRing : Nat
  /-- The number of physical display lines the configuration names (rule R131). -/
  physicalLines : Nat
  /-- Whether the configuration supplies a placement strategy of its own (rule R131). -/
  placementSupplied : Bool
  deriving DecidableEq, Repr

/-- The defaults of rule R5. The geometry has no default in the spec: DESIGN CHOICE, log entry 4. -/
def Config.default : Config where
  timingFactor := 1
  tShort := 37
  tMedium := 41
  tLong := 1520
  tBlink := 409000
  variant := 0
  glyphFullRow := 0x1F
  droppedReadValue := 0x00
  ddramSize := 128
  cgramSize := 64
  displayRing := 80
  physicalLines := 2
  placementSupplied := false

/-- FONT, the character-generator ROM: byte `i` of the table that the variant selects (rules R5, R16). Its content
is supplied from outside and is a free value here (log entry 3). -/
opaque Config.fontTable : Nat → BitVec 12 → Byte

/-- `FONT[i]` of this configuration. -/
def Config.font (c : Config) (i : BitVec 12) : Byte :=
  Config.fontTable c.variant i

end Sys2Proof
end

