-- ==== Sys2Proof/Machine/Time.lean ====
section
/-! DEFINITION. Arithmetic of simulated time. The library's rational operations do not unfold under `decide`, so
the model uses these three, on the same normalised numbers; Laws/Time.lean proves each equal to the library's. -/

namespace Sys2Proof

/-- `a + b`. -/
def Time.plus (a b : Time) : Time :=
  mkRat (a.num * b.den + b.num * a.den) (a.den * b.den)

/-- `a × f`: a base delay scaled by TIMING_FACTOR (rule R136). -/
def Time.scaled (a f : Time) : Time :=
  mkRat (a.num * f.num) (a.den * f.den)

/-- `a < b`. -/
def Time.before (a b : Time) : Bool :=
  decide (a.num * b.den < b.num * a.den)

/-- The later of two times. -/
def Time.later (a b : Time) : Time :=
  if Time.before a b then b else a

end Sys2Proof
end

