-- ==== Sys2Proof/Machine/Controller.lean ====
section
/-! DEFINITION. The controller's state: exactly the tuple of rule R13, and its value after a reset (rule R145). -/

namespace Sys2Proof.Machine

/-- Which RAM the address counter addresses (rule R18). -/
inductive Bank where
  | ddram
  | cgram
  deriving DecidableEq, Repr

/-- `data_len`: the interface width, 4 or 8 bits (rule R21). -/
inductive DataLen where
  | four
  | eight
  deriving DecidableEq, Repr

/-- `num_lines`: 1 or 2 (rule R22). -/
inductive LineCount where
  | one
  | two
  deriving DecidableEq, Repr

/-- `glyph_h`: 8 or 10 pixel rows (rule R23). -/
inductive GlyphHeight where
  | eight
  | ten
  deriving DecidableEq, Repr

/-- `direction`: +1 or -1 (rule R28). -/
inductive Direction where
  | inc
  | dec
  deriving DecidableEq, Repr

/-- `phase`: which nibble the next transaction carries (rule R32). -/
inductive Phase where
  | high
  | low
  deriving DecidableEq, Repr

/-- A RAM bank: the cells that differ from the bank's fill value, in rising address order. The form is
`Memory.wf` of Machine/Ops.lean; an unlisted cell reads as `Bank.fill`. -/
abbrev Memory := List Host.Cell

/-- The controller state of rule R13, one field per element. A bit is a `Bool`, `true` for 1. -/
@[ext]
structure Controller where
  /-- DDRAM, DDRAM_SIZE cells (rules R5, R14). -/
  ddram : Memory
  /-- CGRAM, CGRAM_SIZE cells (rules R5, R15). -/
  cgram : Memory
  /-- AC, the address counter (rule R17). -/
  ac : BitVec 7
  /-- The active bank (rule R18). -/
  bank : Bank
  /-- IR, the instruction register (rule R19). -/
  ir : Byte
  /-- DR, the data register (rule R20). -/
  dr : Byte
  /-- `data_len` (rule R21). -/
  dataLen : DataLen
  /-- `num_lines` (rule R22). -/
  numLines : LineCount
  /-- `glyph_h` (rule R23). -/
  glyphH : GlyphHeight
  /-- `display_on` (rule R24). -/
  displayOn : Bool
  /-- `cursor_on` (rule R25). -/
  cursorOn : Bool
  /-- `blink_on` (rule R26). -/
  blinkOn : Bool
  /-- `shift_on` (rule R27). -/
  shiftOn : Bool
  /-- `direction` (rule R28). -/
  direction : Direction
  /-- `disp_shift` (rule R29). -/
  dispShift : Nat
  /-- `first_cmd` (rule R30). -/
  firstCmd : Bool
  /-- `busy` (rule R31). -/
  busy : Bool
  /-- `busy_deadline` (rule R31). -/
  busyDeadline : Option Time
  /-- `phase` (rule R32). -/
  phase : Phase
  /-- `last_rs` (rule R33). -/
  lastRs : Bool
  /-- `last_rw` (rule R33). -/
  lastRw : Bool
  /-- `blink_phase` (rule R34). -/
  blinkPhase : Bool
  /-- `blink_deadline` (rule R34). -/
  blinkDeadline : Time
  /-- `rs_in` (rule R35). -/
  rsIn : Bool
  /-- `rw_in` (rule R35). -/
  rwIn : Bool
  /-- `db_in` (rule R35). -/
  dbIn : Byte
  /-- `e_level` (rule R35). -/
  eLevel : Bool
  /-- `db_out` (rule R35). -/
  dbOut : Byte
  deriving DecidableEq, Repr

/-- The controller after `reset()` at time `t` (rule R145). The values that the source does not give are the
spec's decisions D7, D8, D17, D20 and D30 (PRESUMED, log entry 14). -/
def Controller.atReset (cfg : Config) (t : Time) : Controller where
  ddram := []
  cgram := []
  ac := 0
  bank := .ddram
  ir := 0x00
  dr := 0x00
  dataLen := .eight
  numLines := .one
  glyphH := .eight
  displayOn := false
  cursorOn := false
  blinkOn := false
  shiftOn := false
  direction := .inc
  dispShift := 0
  firstCmd := true
  busy := true
  busyDeadline := some (Time.plus t (Time.scaled cfg.tLong cfg.timingFactor))
  phase := .high
  lastRs := false
  lastRw := false
  blinkPhase := false
  blinkDeadline := Time.plus t cfg.tBlink
  rsIn := false
  rwIn := false
  dbIn := 0x00
  eLevel := false
  dbOut := 0x00

end Sys2Proof.Machine
end

