-- ==== Sys2Proof/Machine/Events.lean ====
section
/-! DEFINITION. The events of rule R73: what the host delivers, the two timers, and how a delivery is stamped with
its time and its place among timer firings at the same time (rules R134, R141). -/

namespace Sys2Proof.Machine

/-- The events of rule R73 that come from the host. -/
inductive HostEvent where
  /-- `write(rs, value)`. -/
  | write (rs : Bool) (value : Byte)
  /-- `read(rs)`. -/
  | read (rs : Bool)
  /-- `setRegisterSelect(b)` (rule R109). -/
  | setRegisterSelect (b : Bool)
  /-- `setReadWrite(b)` (rule R109). -/
  | setReadWrite (b : Bool)
  /-- `setDataBus(v)` (rule R109). -/
  | setDataBus (v : Byte)
  /-- `latch(e)` (rules R110, R111). -/
  | latch (e : Bool)
  /-- `getDataBus()` (rule R112). -/
  | getDataBus
  /-- `reset()` (rule R145). -/
  | reset
  /-- `isBusy()` (rule R139). -/
  | isBusy
  /-- `render()` (rule R114). -/
  | render
  deriving DecidableEq, Repr

/-- The timers of `onTimerFired(timerId)` (rule R133). -/
inductive Timer where
  | busy
  | blink
  deriving DecidableEq, Repr

/-- A host event as the scheduler delivers it. `busyFirst` and `blinkFirst` are the scheduler's free choice of decision
D21: how many firings of each timer at exactly the event's time come before it (rule R134; log entry 5). The busy timer
fires once per arming; the blink timer, where T_BLINK is 0, is due again at the time at which it has fired. -/
structure Delivery where
  /-- The time at which the event is delivered (rule R73). -/
  time : Time
  /-- Whether a busy expiry at exactly this time comes before the event. -/
  busyFirst : Bool
  /-- How many blink firings at exactly this time come before the event. -/
  blinkFirst : Nat
  /-- The event. -/
  event : HostEvent
  deriving DecidableEq, Repr

/-- The diagnostic codes of rule R128. -/
inductive DiagCode where
  /-- Code 1 (rule R129). -/
  | dataWriteDropped
  /-- Code 2 (rule R129). -/
  | dataReadDropped
  /-- Code 3 (rule R130). -/
  | functionSetRejected
  /-- Code 4, raised by the configuration check and by no step (rule R131). -/
  | unsupportedGeometry
  deriving DecidableEq, Repr

/-- The number of a diagnostic code (rule R128, decision D22). -/
def DiagCode.number : DiagCode → Nat
  | .dataWriteDropped => 1
  | .dataReadDropped => 2
  | .functionSetRejected => 3
  | .unsupportedGeometry => 4

/-- An entry of the diagnostic trace: `(now, code, info)` (rule R128). -/
structure Diag where
  time : Time
  code : DiagCode
  info : Nat
  deriving DecidableEq, Repr

/-- The output of `render()`: lines of cells of 16 row bytes (rule R124). -/
abbrev RenderBuffer := List (List (List Byte))

/-- What an event returns to the host (rule R73). -/
inductive Reply where
  /-- `read` and `getDataBus`. -/
  | byte (v : Byte)
  /-- `isBusy`. -/
  | flag (b : Bool)
  /-- `render`. -/
  | picture (cells : RenderBuffer)
  deriving DecidableEq, Repr

end Sys2Proof.Machine
end

