-- ==== Sys2Proof/WellFormed.lean ====
section
/-! DEFINITION. Well-formedness. An `Instr` is well formed by its type (its fields have the widths of rule R59).
What can be ill formed is a configuration: rule R131 refuses a physical geometry that no placement strategy
covers, and rule R5 gives the parameters' types. -/

namespace Sys2Proof

/-- Why a configuration is refused at construction. -/
inductive ConfigError where
  /-- The physical geometry is outside 1 to 4 lines and no strategy is supplied: UNSUPPORTED_GEOMETRY (rule R131). -/
  | unsupportedGeometry (lines : Nat)
  /-- TIMING_FACTOR is a positive rational (rule R5). -/
  | timingFactorNotPositive
  /-- A base delay is a non-negative time (rule R5). -/
  | negativeDelay
  /-- The blink period is a non-negative time (rules R5, R140). -/
  | negativeBlinkPeriod
  /-- A RAM is too small for an address that the rules produce: every AC names a cell (rules R17, R47), and the
  renderer reads 64 CGRAM cells (rule R119). Log entry 12. -/
  | ramTooSmall
  /-- The display ring has no positions, does not divide into two lines, or is wider than DDRAM: then the remainders
  of rules R45 and R117 have no modulus (rule R7) or a position names no cell. Log entry 12. -/
  | badDisplayRing
  deriving DecidableEq, Repr

/-- The built-in placement strategy covers 1 to 4 physical lines; any other geometry needs a supplied one
(rule R131). -/
def Config.geometrySupported (c : Config) : Bool :=
  c.placementSupplied || (decide (1 ≤ c.physicalLines) && decide (c.physicalLines ≤ 4))

/-- The RAMs hold every address that the rules produce: up to 0x67 in DDRAM and 0x3F in CGRAM (rule R17). -/
def Config.ramsSuffice (c : Config) : Bool :=
  decide (0x68 ≤ c.ddramSize) && decide (0x40 ≤ c.cgramSize)

/-- The display ring divides into one line or two, and every position of rule R117 names a DDRAM cell. -/
def Config.ringSupported (c : Config) : Bool :=
  decide (0 < c.displayRing) && decide (c.displayRing % 2 = 0) && decide (c.displayRing ≤ c.ddramSize)
    && decide (0x40 + c.displayRing / 2 ≤ c.ddramSize)

/-- The configuration check: `none` for a configuration that can be built. -/
def Config.check (c : Config) : Option ConfigError :=
  if !c.geometrySupported then some (.unsupportedGeometry c.physicalLines)
  else if !Time.before 0 c.timingFactor then some .timingFactorNotPositive
  else if Time.before c.tShort 0 || Time.before c.tMedium 0 || Time.before c.tLong 0 then some .negativeDelay
  else if Time.before c.tBlink 0 then some .negativeBlinkPeriod
  else if !c.ramsSuffice then some .ramTooSmall
  else if !c.ringSupported then some .badDisplayRing
  else none

end Sys2Proof
end

