-- ==== Sys2Proof/Machine/State.lean ====
section
/-! DEFINITION. The machine: one controller instance with its parameters, the time and the host events still to be
delivered, and the outputs of rule R10 (the diagnostic trace and the value the last event returned). -/

namespace Sys2Proof.Machine

/-- The state of the machine. `ctl` is the whole controller state of rule R13; the other fields are the step's
inputs and outputs of rule R10 and the parameters of rule R5. -/
@[ext]
structure State where
  /-- The parameters of rule R5; no step changes them (log entry 1). -/
  cfg : Config
  /-- The controller state (rule R13). -/
  ctl : Controller
  /-- The time of the event last processed (rules R8, R10). -/
  now : Time
  /-- The host events still to be delivered, in delivery order (rules R9, R50; log entry 5). -/
  inbox : List Delivery
  /-- The diagnostic trace, oldest entry first: output only (rule R128). -/
  trace : List Diag
  /-- What the event last processed returned to the host (rules R10, R73). -/
  reply : Option Reply
  deriving DecidableEq, Repr

/-- Why the machine stops with a fault. -/
inductive Fault where
  /-- Raised by DATA_WRITE and DATA_READ when AC names no cell of the active bank (bank CGRAM, AC above 0x3F). The
  invariant of rule R17 rules it out in every state a run reaches. Safe: the machine stops. -/
  | noSuchCell (bank : Bank) (address : BitVec 7)
  deriving DecidableEq, Repr

/-- Why the machine refuses to step. -/
inductive Refusal where
  /-- Raised by `exec` for an instruction that has no meaning yet. Safe: the machine stops. No arm uses it. -/
  | notModelled (mnemonic : String)
  /-- Raised by `step` and by `State.powerOn` for a configuration that cannot be built: "no step of the model
  exists for it" (rule R131). Safe: the machine stops. -/
  | badConfiguration (e : ConfigError)
  deriving DecidableEq, Repr

/-- A controller instance as it starts at time `t` with nothing delivered: power-on is a reset (rule R146). -/
def State.initial (cfg : Config) (t : Time) : State where
  cfg := cfg
  ctl := Controller.atReset cfg t
  now := t
  inbox := []
  trace := []
  reply := none

/-- The machine right after reset at time 0, with the default parameters (rules R145, R5). -/
def State.reset : State := State.initial Config.default 0

end Sys2Proof.Machine
end

