-- ==== Sys2Proof/Machine/Ops.lean ====
section
/-! DEFINITION. The named operations over memory, the address counter, the display ring, the busy timer and the
diagnostic trace (rules R8, R39 to R45, R128, R136). The controller takes no exceptions (rules R127, R132);
`State.raiseDiag` is the one shared operation that stands in their place. -/

namespace Sys2Proof.Machine

/-! ### Memory -/

/-- What a cell that nothing has written since reset reads as: 0x20 in DDRAM, 0 in CGRAM (rules R14, R15). -/
def Bank.fill : Bank → Byte
  | .ddram => 0x20
  | .cgram => 0x00

/-- The number of cells of a bank: DDRAM_SIZE or CGRAM_SIZE (rules R5, R39). -/
def Bank.size (cfg : Config) : Bank → Nat
  | .ddram => cfg.ddramSize
  | .cgram => cfg.cgramSize

/-- The byte at address `a`. -/
def Memory.read (fill : Byte) : Memory → Nat → Byte
  | [], _ => fill
  | (b, w) :: m, a => if a = b then w else Memory.read fill m a

/-- Put `v` at the front of `m`, unless an unlisted cell reads as `v` already. -/
def Memory.cons (fill : Byte) (a : Nat) (v : Byte) (m : Memory) : Memory :=
  if v = fill then m else (a, v) :: m

/-- Store `v` at address `a`, keeping the canonical form. -/
def Memory.write (fill : Byte) : Memory → Nat → Byte → Memory
  | [], a, v => Memory.cons fill a v []
  | (b, w) :: m, a, v =>
    if a < b then Memory.cons fill a v ((b, w) :: m)
    else if a = b then Memory.cons fill a v m
    else (b, w) :: Memory.write fill m a v

/-- The listed addresses lie in `[lo, size)` and rise strictly, and no entry holds the fill value. -/
def Memory.wfFrom (fill : Byte) (size : Nat) : Nat → Memory → Bool
  | _, [] => true
  | lo, (b, w) :: m =>
    decide (lo ≤ b) && decide (b < size) && decide (w ≠ fill) && Memory.wfFrom fill size (b + 1) m

/-- The canonical form of a bank's memory. -/
def Memory.wf (cfg : Config) (bank : Bank) (m : Memory) : Bool :=
  Memory.wfFrom bank.fill (bank.size cfg) 0 m

/-- The RAM of a bank. -/
def Controller.ram (c : Controller) : Bank → Memory
  | .ddram => c.ddram
  | .cgram => c.cgram

/-- `MemRead(bank, a)` (rule R39). -/
def Controller.memRead (c : Controller) (bank : Bank) (a : Nat) : Byte :=
  Memory.read bank.fill (c.ram bank) a

/-- `MemWrite(bank, a, v)` (rule R39). -/
def Controller.memWrite (c : Controller) (bank : Bank) (a : Nat) (v : Byte) : Controller :=
  match bank with
  | .ddram => { c with ddram := Memory.write Bank.ddram.fill c.ddram a v }
  | .cgram => { c with cgram := Memory.write Bank.cgram.fill c.cgram a v }

/-- Whether AC names a cell of the active bank (rules R39, R47). -/
def Controller.cellExists (c : Controller) (cfg : Config) : Bool :=
  decide (c.ac.toNat < c.bank.size cfg)

/-! ### The address counter -/

/-- The integer +1 or -1 (rule R28). -/
def Direction.toInt : Direction → Int
  | .inc => 1
  | .dec => -1

/-- `Correct_DD1` (rule R41). -/
def correctOneLine (ac : Int) : Int :=
  if 0x4F < ac then 0 else if ac < 0 then 0x4F else ac

/-- `Correct_DD2` (rule R42; above 0x67 and below 0 by decision D5, log entry 17). -/
def correctTwoLines (ac : Int) : Int :=
  if 0x67 < ac then 0
  else if ac < 0 then 0x67
  else if 0x28 ≤ ac ∧ ac ≤ 0x3F then 0x40 + (ac - 0x28)
  else ac

/-- `Correct_CG` (rule R43). -/
def correctCgram (ac : Int) : Int := ac % 64

/-- `Correct(ac)` (rule R43). -/
def correct (bank : Bank) (lines : LineCount) (ac : Int) : Int :=
  match bank, lines with
  | .cgram, _ => correctCgram ac
  | .ddram, .one => correctOneLine ac
  | .ddram, .two => correctTwoLines ac

/-- `AC <- Correct(a)`, with the controller's bank and line count (rule R43). -/
def Controller.setAC (c : Controller) (a : Int) : Controller :=
  { c with ac := BitVec.ofInt 7 (correct c.bank c.numLines a) }

/-- The integer that `UpdateAC(d)` corrects: 0x27 in the special case, else AC + d (rule R44). -/
def movedAddress (bank : Bank) (lines : LineCount) (d : Direction) (ac : BitVec 7) : Int :=
  if bank = .ddram ∧ lines = .two ∧ d = .dec ∧ ac = 0x40 then 0x27 else (ac.toNat : Int) + d.toInt

/-- `UpdateAC(d)` (rule R44). -/
def Controller.updateAC (c : Controller) (d : Direction) : Controller :=
  c.setAC (movedAddress c.bank c.numLines d c.ac)

/-! ### The display ring -/

/-- `ShiftDisplay(d)` on a ring of `ring` positions, DISPLAY_RING (rules R5, R45). -/
def Controller.shiftDisplay (c : Controller) (ring : Nat) (d : Direction) : Controller :=
  { c with dispShift := (((c.dispShift : Int) + d.toInt) % (ring : Int)).toNat }

/-! ### The machine -/

/-- Apply `f` to the controller. -/
def State.onCtl (s : State) (f : Controller → Controller) : State :=
  { s with ctl := f s.ctl }

/-- `ArmBusy(base)` (rule R136): the new deadline replaces a pending one. -/
def State.armBusy (s : State) (base : Time) : State :=
  { s with
    ctl := { s.ctl with
      busy := true
      busyDeadline := some (Time.plus s.now (Time.scaled base s.cfg.timingFactor)) } }

/-- `raise Diag(code, info)` (rule R128): the trace grows, and the step goes on. -/
def State.raiseDiag (s : State) (code : DiagCode) (info : Nat) : State :=
  { s with trace := s.trace ++ [{ time := s.now, code := code, info := info }] }

/-- `return v` (rule R8). -/
def State.answer (s : State) (r : Reply) : State :=
  { s with reply := some r }

/-- Go on with `f` where an operation gave a next state; keep a stop as it is. -/
def andThen (o : Host.Outcome State Fault Refusal) (f : State → State) : Host.Outcome State Fault Refusal :=
  match o with
  | .next s => .next (f s)
  | .fault e => .fault e
  | .refused r => .refused r

end Sys2Proof.Machine
end

