-- ==== Sys2Proof/Machine/Operands.lean ====
section
/-! DEFINITION. Operand forms: the mode values of the command bits (rules R62 to R65) and the nibbles of a logical
byte (rules R57, R103, R104). -/

namespace Sys2Proof.Machine

/-- DL: 1 requests 8 bits, 0 requests 4 (rule R65). -/
def DataLen.ofBit (dl : Bool) : DataLen := if dl then .eight else .four

/-- N: 1 requests 2 lines, 0 requests 1 (rule R65). -/
def LineCount.ofBit (n : Bool) : LineCount := if n then .two else .one

/-- F: 1 requests 10 rows, 0 requests 8 (rule R65). -/
def GlyphHeight.ofBit (f : Bool) : GlyphHeight := if f then .ten else .eight

/-- ID and RL: 1 gives +1, 0 gives -1 (rules R62, R64). -/
def Direction.ofBit (b : Bool) : Direction := if b then .inc else .dec

/-- The first nibble: `db & 0xF0` (rules R57, R103). -/
def firstNibble (db : Byte) : Byte := db &&& 0xF0

/-- The byte that the second nibble completes: `(reg & 0xF0) | (db >> 4)` (rules R57, R103). -/
def secondNibble (reg db : Byte) : Byte := (reg &&& 0xF0#8) ||| (db >>> 4)

/-- The first nibble of a byte that a read returns: bits 7:4, zeros below (rule R57). -/
def readHigh (v : Byte) : Byte := v &&& 0xF0

/-- The second nibble of a byte that a read returns: bits 3:0 on DB7:4 (rule R57). -/
def readLow (v : Byte) : Byte := (v <<< 4) &&& 0xF0#8

end Sys2Proof.Machine
end

