-- ==== Sys2Proof/Machine/Flags.lean ====
section
/-! DEFINITION. The flags: the busy flag in the status byte (rules R70, R71), the first-command flag (rule R89) and
the Function Set ordering test (rule R82). -/

namespace Sys2Proof.Machine

/-- The status byte of rule R70: the busy flag in bit 7, AC in bits 6:0. The 4-bit form is this byte's two nibbles
(rule R71). -/
def Controller.status (c : Controller) : Byte :=
  (if c.busy then 0x80 else 0x00) ||| (c.ac.zeroExtend 8 &&& 0x7F)

/-- The high phase of a 4-bit status read: BF and AC[6:4] (rule R71). -/
def Controller.statusHigh (c : Controller) : Byte :=
  (if c.busy then 0x80 else 0x00) ||| (c.ac.zeroExtend 8 &&& 0x70)

/-- The low phase of a 4-bit status read: AC[3:0] in bits 7:4 (rule R71). -/
def Controller.statusLow (c : Controller) : Byte :=
  (c.ac.zeroExtend 8 <<< 4) &&& 0xF0#8

/-- First-command bookkeeping: `first_cmd <- false` (rule R89). -/
def State.consumeFirst (s : State) : State :=
  s.onCtl fun c => { c with firstCmd := false }

/-- `FunctionSetRejected(ir)` (rule R82). -/
def Controller.functionSetRejected (c : Controller) (dl n f : Bool) : Bool :=
  !c.firstCmd && decide (DataLen.ofBit dl = c.dataLen)
    && (decide (GlyphHeight.ofBit f ≠ c.glyphH) || decide (LineCount.ofBit n ≠ c.numLines))

end Sys2Proof.Machine
end

