-- ==== Sys2Proof/Machine/Commands.lean ====
section
/-! DEFINITION. The control-channel commands (40_commands.md). Each meaning runs inside `ExecuteControl` (rule R78):
the interface has loaded IR, busy does not gate it (rule R90), and the first-command bookkeeping of rule R89 is
part of it. -/

namespace Sys2Proof.Machine

/-- NULL (rule R88, decision D6): only the bookkeeping of rule R89. -/
def execNull (s : State) : Host.Outcome State Fault Refusal :=
  .next s.consumeFirst

/-- The part that RETURN_HOME and CLEAR_DISPLAY share (rules R86, R87). -/
def Controller.home (c : Controller) : Controller :=
  { c with ac := 0, bank := .ddram, direction := .inc, dispShift := 0 }

/-- CLEAR_DISPLAY (rule R87): every DDRAM cell takes the fill value, so none stays listed; `first_cmd` is kept. -/
def execClearDisplay (s : State) : Host.Outcome State Fault Refusal :=
  .next ((s.onCtl fun c => { c.home with ddram := [] }).armBusy s.cfg.tLong)

/-- RETURN_HOME (rule R86). -/
def execReturnHome (s : State) : Host.Outcome State Fault Refusal :=
  .next ((s.onCtl Controller.home).armBusy s.cfg.tLong).consumeFirst

/-- ENTRY_MODE_SET (rule R85). -/
def execEntryModeSet (id sh : Bool) (s : State) : Host.Outcome State Fault Refusal :=
  .next ((s.onCtl fun c => { c with direction := Direction.ofBit id, shiftOn := sh }).armBusy s.cfg.tShort).consumeFirst

/-- DISPLAY_CONTROL (rule R84). -/
def execDisplayControl (d c b : Bool) (s : State) : Host.Outcome State Fault Refusal :=
  .next ((s.onCtl fun k => { k with displayOn := d, cursorOn := c, blinkOn := b }).armBusy s.cfg.tShort).consumeFirst

/-- CURSOR_DISPLAY_SHIFT (rule R83). -/
def execCursorDisplayShift (sc rl : Bool) (s : State) : Host.Outcome State Fault Refusal :=
  let d := Direction.ofBit rl
  .next ((s.onCtl fun c => if sc then c.shiftDisplay s.cfg.displayRing d else c.updateAC d).armBusy s.cfg.tShort).consumeFirst

/-- The modes that an accepted FUNCTION_SET writes, and the correction under the new line count (rule R81). -/
def Controller.setFunction (c : Controller) (dl n f : Bool) : Controller :=
  Controller.setAC
    { c with dataLen := DataLen.ofBit dl, numLines := LineCount.ofBit n, glyphH := GlyphHeight.ofBit f } c.ac.toNat

/-- FUNCTION_SET (rules R81, R82): a rejected one only raises code 3, with IR. -/
def execFunctionSet (dl n f : Bool) (s : State) : Host.Outcome State Fault Refusal :=
  if s.ctl.functionSetRejected dl n f then
    .next (s.raiseDiag .functionSetRejected s.ctl.ir.toNat)
  else
    .next ((s.onCtl fun c => c.setFunction dl n f).armBusy s.cfg.tShort).consumeFirst

/-- SET_CGRAM_ADDR (rule R80). -/
def execSetCgramAddr (a : BitVec 6) (s : State) : Host.Outcome State Fault Refusal :=
  .next ((s.onCtl fun c => { c with bank := .cgram, ac := a.zeroExtend 7 }).armBusy s.cfg.tShort).consumeFirst

/-- SET_DDRAM_ADDR (rule R79): the bank is DDRAM before the correction. -/
def execSetDdramAddr (a : BitVec 7) (s : State) : Host.Outcome State Fault Refusal :=
  .next ((s.onCtl fun c => Controller.setAC { c with bank := .ddram } a.toNat).armBusy s.cfg.tShort).consumeFirst

end Sys2Proof.Machine
end

