-- ==== Sys2Proof/Machine/DataChannel.lean ====
section
/-! DEFINITION. The data channel and the status read (41_data_channel.md). A read row stands for one transaction in
either width (30_encoding.md, rules R105, R106); a data write is the completed logical byte (rule R97). -/

namespace Sys2Proof.Machine

/-- A data write that the busy gate drops: code 1, with the transaction's byte (rules R96, R129). -/
def State.dropWrite (s : State) (db : Byte) : State :=
  s.raiseDiag .dataWriteDropped db.toNat

/-- A data read that the busy gate drops: code 2, with AC; the read still returns a defined byte
(rules R96, R129). -/
def State.dropRead (s : State) : State :=
  (s.raiseDiag .dataReadDropped s.ctl.ac.toNat).answer (.byte s.cfg.droppedReadValue)

/-- Shift on write (rule R93). -/
def Controller.shiftOnWrite (c : Controller) (ring : Nat) : Controller :=
  if c.shiftOn then c.shiftDisplay ring c.direction else c

/-- `DR <- v; DataWrite()` on the controller: the byte goes to the cell at AC before the increment (rule R92). -/
def Controller.storeData (c : Controller) (ring : Nat) (v : Byte) : Controller :=
  let c1 := Controller.memWrite { c with dr := v } c.bank c.ac.toNat v
  (c1.updateAC c1.direction).shiftOnWrite ring

/-- DATA_WRITE (rules R92, R96). -/
def execDataWrite (v : Byte) (s : State) : Host.Outcome State Fault Refusal :=
  if s.ctl.busy then .next (s.dropWrite v)
  else if s.ctl.cellExists s.cfg then .next ((s.onCtl fun c => c.storeData s.cfg.displayRing v).armBusy s.cfg.tMedium)
  else .fault (.noSuchCell s.ctl.bank s.ctl.ac)

/-- `UpdateAC(direction); ArmBusy(T_MEDIUM)`: the side effects of a completed data read (rule R94). -/
def State.finishRead (s : State) : State :=
  (s.onCtl fun c => c.updateAC c.direction).armBusy s.cfg.tMedium

/-- One accepted data-read transaction that sees the byte `v` at AC: whole in 8-bit mode (rule R94), one nibble in
4-bit mode, the side effects on the second (rule R106). -/
def State.loadData (s : State) (v : Byte) : State :=
  match s.ctl.dataLen, s.ctl.phase with
  | .eight, _ => s.finishRead.answer (.byte v)
  | .four, .high => (s.onCtl fun c => { c with phase := .low }).answer (.byte (readHigh v))
  | .four, .low => ((s.onCtl fun c => { c with phase := .high }).finishRead).answer (.byte (readLow v))

/-- DATA_READ: one data-channel read transaction (rules R94, R96, R106). -/
def execDataRead (s : State) : Host.Outcome State Fault Refusal :=
  if s.ctl.busy then .next s.dropRead
  else if s.ctl.cellExists s.cfg then .next (s.loadData (s.ctl.memRead s.ctl.bank s.ctl.ac.toNat))
  else .fault (.noSuchCell s.ctl.bank s.ctl.ac)

/-- STATUS_READ: one control-channel read transaction, in 8-bit mode (rule R95) or one nibble of it in 4-bit mode
(rule R105). -/
def execStatusRead (s : State) : Host.Outcome State Fault Refusal :=
  match s.ctl.dataLen, s.ctl.phase with
  | .eight, _ => .next (s.answer (.byte s.ctl.status))
  | .four, .high => .next ((s.onCtl fun c => { c with phase := .low }).answer (.byte s.ctl.statusHigh))
  | .four, .low => .next ((s.onCtl fun c => { c with phase := .high }).answer (.byte s.ctl.statusLow))

end Sys2Proof.Machine
end

