-- ==== Sys2Proof/Machine/Interface.lean ====
section
/-! DEFINITION. The interface width multiplexer (42_interface.md): what a bus transaction completes, given the state
(rule R77), and the host events of rule R73 that make transactions or set the three-line latches. -/

namespace Sys2Proof.Machine

/-- `LevelCheck` (rule R101). -/
def Controller.levelCheck (c : Controller) (rs rw : Bool) : Controller :=
  { c with
    phase := if c.dataLen = .four ∧ (rs ≠ c.lastRs ∨ rw ≠ c.lastRw) then .high else c.phase
    lastRs := rs
    lastRw := rw }

/-- What a transaction comes to: it completes an operation, or it ends without one (a nibble is held, or the busy
gate drops it). -/
inductive Transaction where
  /-- The operation `i` runs in the state `s`. -/
  | completes (i : Instr) (s : State)
  /-- Nothing runs; the machine is in the state `s`. -/
  | ends (s : State)
  deriving DecidableEq, Repr

/-- The busy gate's drop of a data-channel transaction (rule R96). -/
def State.dropData (s : State) (rw : Bool) (db : Byte) : State :=
  if rw then s.dropRead else s.dropWrite db

/-- `Forward8` (rule R102). A data write's byte reaches DR in DATA_WRITE itself. -/
def forward8 (rs rw : Bool) (db : Byte) (s : State) : Transaction :=
  match rs, rw with
  | false, false => .completes (decodeCommand db) (s.onCtl fun c => { c with ir := db })
  | true, false => .completes (.dataWrite db) s
  | false, true => .completes .statusRead s
  | true, true => .completes .dataRead s

/-- `Nibble_ControlWrite` (rule R103). -/
def nibbleControlWrite (db : Byte) (s : State) : Transaction :=
  match s.ctl.phase with
  | .high => .ends (s.onCtl fun c => { c with ir := firstNibble db, phase := .low })
  | .low =>
    let ir := secondNibble s.ctl.ir db
    .completes (decodeCommand ir) (s.onCtl fun c => { c with ir := ir, phase := .high })

/-- `Nibble_DataWrite` (rule R104). -/
def nibbleDataWrite (db : Byte) (s : State) : Transaction :=
  match s.ctl.phase with
  | .high => .ends (s.onCtl fun c => { c with dr := firstNibble db, phase := .low })
  | .low =>
    let dr := secondNibble s.ctl.dr db
    .completes (.dataWrite dr) (s.onCtl fun c => { c with dr := dr, phase := .high })

/-- The 4-bit cases of rule R100. The nibble phases of the reads are in the read rows' own meanings
(rules R105, R106). -/
def forward4 (rs rw : Bool) (db : Byte) (s : State) : Transaction :=
  match rs, rw with
  | false, false => nibbleControlWrite db s
  | true, false => nibbleDataWrite db s
  | false, true => .completes .statusRead s
  | true, true => .completes .dataRead s

/-- `Transact`, up to the operation it completes: the level check, then the busy gate, then the width
(rule R100). -/
def multiplex (rs rw : Bool) (db : Byte) (s : State) : Transaction :=
  let s1 := s.onCtl fun c => c.levelCheck rs rw
  if rs && s1.ctl.busy then .ends (s1.dropData rw db)
  else
    match s1.ctl.dataLen with
    | .eight => forward8 rs rw db s1
    | .four => forward4 rs rw db s1

/-- `Transact(rs, rw, db)` (rule R100). -/
def transact (rs rw : Bool) (db : Byte) (s : State) : Host.Outcome State Fault Refusal :=
  match multiplex rs rw db s with
  | .completes i s1 => exec i s1
  | .ends s1 => .next s1

/-- The byte of a read transaction, as the last event returned it. -/
def Reply.toByte : Option Reply → Byte
  | some (.byte v) => v
  | some (.flag _) | some (.picture _) | none => 0x00

/-- Where a three-line read's byte goes: onto `db_out`, and not back to the caller (rule R110). -/
def State.latchRead (s : State) : State :=
  { s with ctl := { s.ctl with dbOut := Reply.toByte s.reply, eLevel := true }, reply := none }

/-- `latch(e)` (rules R110, R111): a call that is no edge changes nothing. -/
def latch (e : Bool) (s : State) : Host.Outcome State Fault Refusal :=
  match e, s.ctl.eLevel with
  | true, false =>
    if s.ctl.rwIn then andThen (transact s.ctl.rsIn true 0x00 s) State.latchRead
    else .next (s.onCtl fun c => { c with eLevel := true })
  | false, true =>
    if s.ctl.rwIn then .next (s.onCtl fun c => { c with eLevel := false })
    else andThen (transact s.ctl.rsIn false s.ctl.dbIn s) fun t => t.onCtl fun c => { c with eLevel := false }
  | true, true => .next s
  | false, false => .next s

end Sys2Proof.Machine
end

