-- ==== Sys2Proof/Machine/Render.lean ====
section
/-! DEFINITION. The renderer (43_render.md): a function of the controller and the parameters (rule R114). -/

namespace Sys2Proof.Machine

/-- The number of lines (rule R22). -/
def LineCount.toNat : LineCount → Nat
  | .one => 1
  | .two => 2

/-- `L`: the cells of a line, DISPLAY_RING over the number of lines (rules R5, R116). -/
def LineCount.cells (n : LineCount) (ring : Nat) : Nat := ring / n.toNat

/-- The number of pixel rows (rule R23). -/
def GlyphHeight.toNat : GlyphHeight → Nat
  | .eight => 8
  | .ten => 10

/-- `pos(l, p)`: the DDRAM address that cell `(l, p)` shows (rule R117, decision D14). -/
def Controller.cellAddress (c : Controller) (ring l p : Nat) : Nat :=
  l * 0x40 + (p + c.dispShift) % c.numLines.cells ring

/-- `CgBase(code)` (rule R119). -/
def cgBase (h : GlyphHeight) (code : Byte) : Nat :=
  match h with
  | .eight => (code &&& 0x07).toNat * 8
  | .ten => (code &&& 0x03).toNat * 16

/-- Row `r` of the glyph of a character code: from CGRAM below 0x10, else from FONT (rules R118 to R120). -/
def glyphRow (cfg : Config) (c : Controller) (code : Byte) (r : Nat) : Byte :=
  if code.toNat < 0x10 then c.memRead .cgram (cgBase c.glyphH code + r)
  else cfg.font (BitVec.ofNat 12 (code.toNat * 16 + r))

/-- Whether the blinking block covers the cursor cell: the "off" half is `blink_phase = false` (rules R34, R123). -/
def Controller.blockShown (c : Controller) : Bool := c.blinkOn && !c.blinkPhase

/-- Row `r` of cell `(l, p)`: the glyph, the underline over it, the block over both, and nothing from `glyph_h` on
(rules R121 to R123). The cursor test ignores the bank (decision D18). -/
def renderRow (cfg : Config) (c : Controller) (l p r : Nat) : Byte :=
  let addr := c.cellAddress cfg.displayRing l p
  let here := decide (addr = c.ac.toNat)
  if c.glyphH.toNat ≤ r then 0x00
  else if here && c.blockShown then cfg.glyphFullRow
  else if here && c.cursorOn && decide (r + 1 = c.glyphH.toNat) then cfg.glyphFullRow
  else glyphRow cfg c (c.memRead .ddram addr) r

/-- The 16 row bytes of cell `(l, p)`: all zero with the display off (rules R115, R121). -/
def renderCell (cfg : Config) (c : Controller) (l p : Nat) : List Byte :=
  (List.range 16).map fun r => if c.displayOn then renderRow cfg c l p r else 0x00

/-- `render()` (rules R114 to R116, R124). -/
def render (cfg : Config) (c : Controller) : RenderBuffer :=
  (List.range c.numLines.toNat).map fun l => (List.range (c.numLines.cells cfg.displayRing)).map fun p => renderCell cfg c l p

end Sys2Proof.Machine
end

