-- ==== Sys2Proof/Machine/Scheduler.lean ====
section
/-! DEFINITION. The two timers and the order of delivery (60_exceptions.md, rules R133 to R141): which event comes
next, and what each event does. -/

namespace Sys2Proof.Machine

/-- `onTimerFired(k)` (rules R138, R140). -/
def fire (k : Timer) (s : State) : State :=
  match k with
  | .busy => s.onCtl fun c => { c with busy := false, busyDeadline := none }
  | .blink =>
    s.onCtl fun c => { c with blinkPhase := !c.blinkPhase, blinkDeadline := Time.plus c.blinkDeadline s.cfg.tBlink }

/-- A host event at the current time (rules R73, R100, R109 to R114, R139, R145). -/
def deliver (e : HostEvent) (s : State) : Host.Outcome State Fault Refusal :=
  match e with
  | .write rs v => transact rs false v s
  | .read rs => transact rs true 0x00 s
  | .setRegisterSelect b => .next (s.onCtl fun c => { c with rsIn := b })
  | .setReadWrite b => .next (s.onCtl fun c => { c with rwIn := b })
  | .setDataBus v => .next (s.onCtl fun c => { c with dbIn := v })
  | .latch e => latch e s
  | .getDataBus => .next (s.answer (.byte s.ctl.dbOut))
  | .reset => .next (s.onCtl fun _ => Controller.atReset s.cfg s.now)
  | .isBusy => .next (s.answer (.flag s.ctl.busy))
  | .render => .next (s.answer (.picture (render s.cfg s.ctl)))

/-- Whether a deadline comes before an event at time `t`: it is earlier, or it is equal and the scheduler puts the
firing first (rules R134, R141). -/
def dueBefore (deadline t : Time) (first : Bool) : Bool :=
  Time.before deadline t || (decide (deadline = t) && first)

/-- The event that is processed next. -/
inductive Upcoming where
  /-- Timer `k` fires at time `t`. -/
  | timer (k : Timer) (t : Time)
  /-- The host event of `d` is delivered at time `t`, and `rest` stays in the inbox. -/
  | host (d : Delivery) (rest : List Delivery) (t : Time)
  deriving DecidableEq, Repr

/-- The earlier of the pending timers; at one time the busy timer first (DESIGN CHOICE, log entry 7: no event comes
between the two, and they change different fields). -/
def State.nextTimer (s : State) : Upcoming :=
  match s.ctl.busyDeadline with
  | none => .timer .blink s.ctl.blinkDeadline
  | some b => if Time.before s.ctl.blinkDeadline b then .timer .blink s.ctl.blinkDeadline else .timer .busy b

/-- Whether the busy deadline comes before an event at time `t`. -/
def State.busyDue (s : State) (t : Time) (first : Bool) : Bool :=
  match s.ctl.busyDeadline with
  | none => false
  | some b => dueBefore b t first

/-- The event that is processed next: the head of the inbox, unless a timer must fire before it (rule R141), or may
and the scheduler says so (rule R134). An event stamped with a past time is delivered now (log entry 6). With an
empty inbox only the timers are left. -/
def State.upcoming (s : State) : Upcoming :=
  match s.inbox with
  | [] => s.nextTimer
  | d :: rest =>
    let t := Time.later s.now d.time
    match s.busyDue t d.busyFirst, dueBefore s.ctl.blinkDeadline t (decide (0 < d.blinkFirst)) with
    | false, false => .host d rest t
    | true, false => .timer .busy (s.ctl.busyDeadline.getD t)
    | false, true => .timer .blink s.ctl.blinkDeadline
    | true, true => s.nextTimer

/-- The inbox after timer `k` has fired at time `t`: where the next host event is due at `t` too, one of the blink
firings that come before it has been made (rule R134). -/
def State.inboxAfter (s : State) (k : Timer) (t : Time) : List Delivery :=
  match k, s.inbox with
  | .blink, d :: rest =>
    { d with blinkFirst := if Time.later s.now d.time = t then d.blinkFirst - 1 else d.blinkFirst } :: rest
  | .blink, [] => []
  | .busy, inbox => inbox

/-- Process an event: time moves on to it, and nothing has been returned yet (rule R10). -/
def State.process (s : State) (u : Upcoming) : Host.Outcome State Fault Refusal :=
  match u with
  | .timer k t => .next (fire k { s with now := t, inbox := s.inboxAfter k t, reply := none })
  | .host d rest t => deliver d.event { s with now := t, inbox := rest, reply := none }

/-- A controller instance at power-on: a configuration that cannot be built is refused (rules R131, R146). -/
def State.powerOn (cfg : Config) (t : Time) : Host.Outcome State Fault Refusal :=
  match cfg.check with
  | some e => .refused (.badConfiguration e)
  | none => .next (State.initial cfg t)

/-- The diagnostic that a refused geometry is reported with: UNSUPPORTED_GEOMETRY and the geometry
(rules R128, R131). -/
def geometryDiag (cfg : Config) (t : Time) : Option Diag :=
  if cfg.geometrySupported then none
  else some { time := t, code := .unsupportedGeometry, info := cfg.physicalLines }

/-- Put a host event at the head of the inbox, to be delivered now and before a timer due now. -/
def State.pushNow (s : State) (e : HostEvent) : State :=
  { s with inbox := { time := s.now, busyFirst := false, blinkFirst := 0, event := e } :: s.inbox }

/-- Make the transaction of `w` the next event. In 4-bit mode a write takes two transactions: the first has then
been made (its nibble is held, the levels recorded), and the second is the next event (log entry 8). -/
def State.placeWord (s : State) (w : BusWord) : State :=
  if busRw w then s.pushNow (.read (busRs w))
  else
    match s.ctl.dataLen with
    | .eight => s.pushNow (.write (busRs w) (busDb w))
    | .four =>
      (s.onCtl fun c =>
        { c with
          phase := .low
          lastRs := busRs w
          lastRw := false
          ir := if busRs w then c.ir else firstNibble (busDb w)
          dr := if busRs w then firstNibble (busDb w) else c.dr }).pushNow (.write (busRs w) (busDb w <<< 4))

end Sys2Proof.Machine
end

