-- ==== Sys2Proof/Machine/Step.lean ====
section
/-! DEFINITION. One step of the machine: the next event is processed (rule R10). -/

namespace Sys2Proof.Machine

/-- One step. No step exists for a configuration that cannot be built (rule R131). -/
def step (s : State) : Host.Outcome State Fault Refusal :=
  match s.cfg.check with
  | some e => .refused (.badConfiguration e)
  | none => s.process s.upcoming

/-- `s` with the table word `w` as its next event. -/
def State.withFetchWord (s : State) (nbits w : Nat) : State :=
  s.placeWord (BitVec.ofNat 10 (w % 2 ^ nbits))

end Sys2Proof.Machine
end

