-- ==== Sys2Proof/Safety.lean ====
section
/-! DEFINITION. What a safe run is: the invariants of rules R17, R31, R38 and R141, and the vocabulary of the
statements. The address and ring functions here are tables of the spec's worked values, written apart from the
correction pseudocode that the machine runs. -/

namespace Sys2Proof.Machine

/-- The valid addresses of a bank under a line count (rule R17). -/
def addressValid (bank : Bank) (lines : LineCount) (a : BitVec 7) : Bool :=
  match bank, lines with
  | .cgram, _ => decide (a.toNat ≤ 0x3F)
  | .ddram, .one => decide (a.toNat ≤ 0x4F)
  | .ddram, .two => decide (a.toNat ≤ 0x27) || (decide (0x40 ≤ a.toNat) && decide (a.toNat ≤ 0x67))

/-- AC is valid for the bank and the line count (rule R17). -/
def Controller.acValid (c : Controller) : Bool := addressValid c.bank c.numLines c.ac

/-- The invariants that hold after every step. -/
structure State.Inv (s : State) : Prop where
  /-- The configuration can be built (rule R131). -/
  cfg_ok : s.cfg.check = none
  /-- AC is in the range of rule R17 (rule R38). -/
  ac_valid : s.ctl.acValid = true
  /-- `disp_shift` is on the display ring: in 0 to 79 where DISPLAY_RING is 80 (rule R38). -/
  shift_lt : s.ctl.dispShift < s.cfg.displayRing
  /-- `busy` holds exactly when a busy deadline is pending (rules R31, R38). -/
  busy_iff : s.ctl.busy = s.ctl.busyDeadline.isSome
  /-- In 8-bit mode the phase is HIGH (rule R38). -/
  phase_high : s.ctl.dataLen = .eight → s.ctl.phase = .high
  /-- DDRAM is in canonical form, its addresses below DDRAM_SIZE. -/
  ddram_wf : Memory.wf s.cfg .ddram s.ctl.ddram = true
  /-- CGRAM is in canonical form, its addresses below CGRAM_SIZE. -/
  cgram_wf : Memory.wf s.cfg .cgram s.ctl.cgram = true
  /-- Time is non-negative (rule R5). -/
  now_nonneg : 0 ≤ s.now
  /-- No pending busy deadline lies in the past (rule R141). -/
  busy_ahead : ∀ t, s.ctl.busyDeadline = some t → s.now ≤ t
  /-- The blink deadline does not lie in the past (rule R141). -/
  blink_ahead : s.now ≤ s.ctl.blinkDeadline

/-- While `first_cmd` is true, only Clear Display has run since reset, so every mode element that a command writes
is at its reset value (rules R30, R89, R145). -/
def State.FirstCommandModes (s : State) : Prop :=
  s.ctl.firstCmd = true →
    s.ctl.dataLen = .eight ∧ s.ctl.numLines = .one ∧ s.ctl.glyphH = .eight ∧ s.ctl.displayOn = false ∧
    s.ctl.cursorOn = false ∧ s.ctl.blinkOn = false ∧ s.ctl.shiftOn = false ∧ s.ctl.direction = .inc ∧
    s.ctl.dispShift = 0 ∧ s.ctl.bank = .ddram

/-- The blink timer is in its `k`-th half-period since a reset at `t0`: the phase is false in the even ones
(rule R160). -/
def State.InBlinkHalf (s : State) (t0 : Time) (k : Nat) : Prop :=
  s.ctl.blinkPhase = decide (k % 2 = 1) ∧
  s.ctl.blinkDeadline = t0 + ((k : Rat) + 1) * s.cfg.tBlink ∧
  t0 + (k : Rat) * s.cfg.tBlink ≤ s.now ∧ s.now ≤ s.ctl.blinkDeadline

/-! ### The vocabulary of the statements -/

/-- The deadline `now + base × TIMING_FACTOR` (rule R136). -/
def State.busyUntil (s : State) (base : Time) : Option Time :=
  some (s.now + base * s.cfg.timingFactor)

/-- The position after `a` in direction `d` on the ring of the bank's valid addresses (the values of test vectors
A1 to A21). -/
def ringStep (bank : Bank) (lines : LineCount) (d : Direction) (a : BitVec 7) : BitVec 7 :=
  match bank, lines, d with
  | .cgram, _, .inc => if a = 0x3F then 0x00 else a + 1
  | .cgram, _, .dec => if a = 0x00 then 0x3F else a - 1
  | .ddram, .one, .inc => if a = 0x4F then 0x00 else a + 1
  | .ddram, .one, .dec => if a = 0x00 then 0x4F else a - 1
  | .ddram, .two, .inc => if a = 0x27 then 0x40 else if a = 0x67 then 0x00 else a + 1
  | .ddram, .two, .dec => if a = 0x40 then 0x27 else if a = 0x00 then 0x67 else a - 1

/-- The address that a 7-bit operand or counter value is corrected to (the values of vectors A5, A6, A12 to A17,
A21 and C1 to C10). -/
def correctedAddress (bank : Bank) (lines : LineCount) (a : BitVec 7) : BitVec 7 :=
  match bank, lines with
  | .cgram, _ => a &&& 0x3F
  | .ddram, .one => if a.toNat ≤ 0x4F then a else 0
  | .ddram, .two =>
    if a.toNat ≤ 0x27 then a
    else if a.toNat ≤ 0x3F then a + 0x18
    else if a.toNat ≤ 0x67 then a
    else 0

/-- The position after `n` in direction `d` on a ring of `ring` positions, for `n` below `ring` (vectors A22 to A24,
where the ring is 80). -/
def ringShift (ring : Nat) (d : Direction) (n : Nat) : Nat :=
  match d with
  | .inc => if n + 1 = ring then 0 else n + 1
  | .dec => if n = 0 then ring - 1 else n - 1

/-- The other direction. -/
def Direction.opposite : Direction → Direction
  | .inc => .dec
  | .dec => .inc

/-- The host event of a transaction word (rule R56). -/
def eventOfWord (w : BusWord) : HostEvent :=
  if busRw w then .read (busRs w) else .write (busRs w) (busDb w)

/-- The bus transaction that a host event makes in this controller, if it makes one: RS, RW and DB. A `latch` makes
one on the rising edge of a read and on the falling edge of a write (rules R100, R110, R111). -/
def Controller.transactionOf (c : Controller) : HostEvent → Option (Bool × Bool × Byte)
  | .write rs v => some (rs, false, v)
  | .read rs => some (rs, true, 0x00)
  | .latch true => if !c.eLevel && c.rwIn then some (c.rsIn, true, 0x00) else none
  | .latch false => if c.eLevel && !c.rwIn then some (c.rsIn, false, c.dbIn) else none
  | .setRegisterSelect _ | .setReadWrite _ | .setDataBus _ | .getDataBus | .reset | .isBusy | .render => none

/-- The operation that a transaction completes, if it completes one. -/
def Transaction.operation : Transaction → Option Instr
  | .completes i _ => some i
  | .ends _ => none

/-- The operation that the next step completes, if it completes one. -/
def State.nextInstr (s : State) : Option Instr :=
  match s.upcoming with
  | .timer _ _ => none
  | .host d rest t =>
    (s.ctl.transactionOf d.event).bind fun x =>
      (multiplex x.1 x.2.1 x.2.2 { s with now := t, inbox := rest, reply := none }).operation

/-- Whether the next step is a reset. -/
def State.nextIsReset (s : State) : Bool :=
  match s.upcoming with
  | .timer _ _ => false
  | .host d _ _ => decide (d.event = .reset)

/-- Deliver several host events at the current time, in order. -/
def deliverAll : List HostEvent → State → Host.Outcome State Fault Refusal
  | [], s => .next s
  | e :: es, s =>
    match deliver e s with
    | .next t => deliverAll es t
    | .fault r => .fault r
    | .refused r => .refused r

/-- Row `r` of cell `(l, p)` of a buffer (rule R124). -/
def RenderBuffer.row (b : RenderBuffer) (l p r : Nat) : Option Byte :=
  (b[l]?).bind fun cells => (cells[p]?).bind fun rows => rows[r]?

end Sys2Proof.Machine
end

