-- ==== Sys2Proof/Certificates/Slice0/Obligations.lean ====
section
/-! DEFINITION. The statements for the provers. A record equality `exec i s = .next { s with … }` says three things at
once: the instruction completes, what it writes, and that every other element of the state (every register, every
cell of both RAMs, the parameters, the trace) is unchanged. `D<n>` names a decision of spec/92_eei_decisions.md. -/

open Sys2Proof Sys2Proof.Machine

/-! ### Encoding -/

/-- Rules R56 to R68: no operand bit is lost in the transaction word. -/
def Obligations.DecodeRecoversEncodedInstruction : Prop :=
  ∀ i : Instr, decode (encode i) = i

/-- Rules R59, R69: the word of the decoded operation is the word itself, up to the bits that the operation ignores. -/
def Obligations.EncodeRestoresWordUpToIgnoredBits : Prop :=
  ∀ w : BusWord,
    encode (decode w) =
      w &&& (match decode w with
        | .returnHome => 0x3FE
        | .cursorDisplayShift _ _ | .functionSet _ _ _ => 0x3FC
        | .statusRead | .dataRead => 0x300
        | .null | .clearDisplay | .entryModeSet _ _ | .displayControl _ _ _ | .setCgramAddr _ | .setDdramAddr _
        | .dataWrite _ => 0x3FF)

/-- Rules R58, R59 and the opcode table: every word selects exactly one row, and the decoder gives that row's
operation. -/
def Obligations.EveryWordSelectsItsOneTableRow : Prop :=
  ∀ w : BusWord, selectedRows w = [(decode w).mnemonic]

/-- Rule R59 (field positions: D1): words spelled out bit by bit, one of each row. -/
def Obligations.SpelledOutWordsDecode : Prop :=
  decode 0b0000000000 = .null ∧
  decode 0b0000000001 = .clearDisplay ∧
  decode 0b0000000011 = .returnHome ∧
  decode 0b0000000110 = .entryModeSet true false ∧
  decode 0b0000001101 = .displayControl true false true ∧
  decode 0b0000011011 = .cursorDisplayShift true false ∧
  decode 0b0000110111 = .functionSet true false true ∧
  decode 0b0001101010 = .setCgramAddr 0b101010 ∧
  decode 0b0011000101 = .setDdramAddr 0b1000101 ∧
  decode 0b0110101010 = .statusRead ∧
  decode 0b1001000001 = .dataWrite 0b01000001 ∧
  decode 0b1101010101 = .dataRead

/-! ### The address counter and the display ring -/

/-- Rule R41. -/
def Obligations.OneLineCorrectionWraps : Prop :=
  ∀ ac : Int,
    (0x4F < ac → correct .ddram .one ac = 0) ∧
    (ac < 0 → correct .ddram .one ac = 0x4F) ∧
    (0 ≤ ac ∧ ac ≤ 0x4F → correct .ddram .one ac = ac)

/-- Rules R42 (above 0x67 and below 0: D5) and R43. -/
def Obligations.TwoLineAndCgramCorrection : Prop :=
  ∀ ac : Int,
    (0 ≤ ac ∧ ac ≤ 0x27 → correct .ddram .two ac = ac) ∧
    (0x28 ≤ ac ∧ ac ≤ 0x3F → correct .ddram .two ac = 0x40 + (ac - 0x28)) ∧
    (0x40 ≤ ac ∧ ac ≤ 0x67 → correct .ddram .two ac = ac) ∧
    (0x67 < ac → correct .ddram .two ac = 0) ∧
    (ac < 0 → correct .ddram .two ac = 0x67) ∧
    ∀ n : LineCount, 0 ≤ correct .cgram n ac ∧ correct .cgram n ac < 64 ∧ (64 : Int) ∣ ac - correct .cgram n ac

/-- Rule R44 (the wrap at 0x67 and 0 in two-line mode: D5): from a valid address, `UpdateAC` moves AC along the ring
of the valid addresses and changes nothing else. -/
def Obligations.UpdateACFollowsTheRing : Prop :=
  ∀ (c : Controller) (d : Direction), c.acValid = true →
    c.updateAC d = { c with ac := ringStep c.bank c.numLines d c.ac }

/-- Rule R44 (with D5): a move and the move back cancel, so the valid addresses form a cycle in every mode. -/
def Obligations.UpdateACIsUndoneByTheOppositeMove : Prop :=
  ∀ (c : Controller) (d : Direction), c.acValid = true →
    (c.updateAC d).updateAC d.opposite = c ∧ (c.updateAC d).acValid = true

/-- Rule R45: the ring has 80 positions, the value rule R5 gives DISPLAY_RING; and the same for every other size of
that parameter. -/
def Obligations.ShiftDisplayMovesTheEightyPositionRing : Prop :=
  Config.default.displayRing = 80 ∧
  ∀ (c : Controller) (ring : Nat), 0 < ring →
    (∀ d : Direction, ∃ n : Nat,
      c.shiftDisplay ring d = { c with dispShift := n } ∧ n < ring ∧
        (ring : Int) ∣ (c.dispShift : Int) + d.toInt - (n : Int)) ∧
    (c.dispShift = 0 → c.shiftDisplay ring .dec = { c with dispShift := ring - 1 })

/-! ### The busy timer -/

/-- Rule R136. -/
def Obligations.ArmBusyReplacesThePendingDeadline : Prop :=
  ∀ (s : State) (base : Time),
    s.armBusy base = { s with ctl := { s.ctl with busy := true, busyDeadline := s.busyUntil base } } ∧
    ∀ t : Time, (s.armBusy base).upcoming = .timer .busy t → s.busyUntil base = some t

/-! ### The commands -/

/-- Rule R88 (D6): NULL completes in every state and writes `first_cmd` only. -/
def Obligations.NullConsumesTheFirstCommandOnly : Prop :=
  ∀ s : State, exec .null s = .next { s with ctl := { s.ctl with firstCmd := false } }

/-- Rule R87. Every DDRAM cell reads 0x20; `first_cmd` and CGRAM are among what is unchanged. -/
def Obligations.ClearDisplayFillsAndHomes : Prop :=
  decodeCommand 0x01 = .clearDisplay ∧
  ∀ s : State, ∃ t : State,
    exec .clearDisplay s = .next t ∧
    (∀ a : Nat, t.ctl.memRead .ddram a = 0x20) ∧
    t = { s with ctl := { s.ctl with
            ddram := t.ctl.ddram, ac := 0, bank := .ddram, direction := .inc, dispShift := 0,
            busy := true, busyDeadline := s.busyUntil s.cfg.tLong } }

/-- Rule R86. -/
def Obligations.ReturnHomeRestoresTheOrigin : Prop :=
  decodeCommand 0x02 = .returnHome ∧ decodeCommand 0x03 = .returnHome ∧
  ∀ s : State,
    exec .returnHome s = .next { s with ctl := { s.ctl with
      ac := 0, bank := .ddram, direction := .inc, dispShift := 0,
      busy := true, busyDeadline := s.busyUntil s.cfg.tLong, firstCmd := false } }

/-- Rule R85 (which bit is which: D1). -/
def Obligations.EntryModeSetWritesDirectionAndShift : Prop :=
  ∀ (id sh : Bool) (s : State),
    exec (.entryModeSet id sh) s = .next { s with ctl := { s.ctl with
      direction := if id then .inc else .dec, shiftOn := sh,
      busy := true, busyDeadline := s.busyUntil s.cfg.tShort, firstCmd := false } }

/-- Rule R84 (which bit is which: D1). -/
def Obligations.DisplayControlWritesThreeFlags : Prop :=
  ∀ (d c b : Bool) (s : State),
    exec (.displayControl d c b) s = .next { s with ctl := { s.ctl with
      displayOn := d, cursorOn := c, blinkOn := b,
      busy := true, busyDeadline := s.busyUntil s.cfg.tShort, firstCmd := false } }

/-- Rule R83 (which bit is which: D1; the two-line wrap at 0x67 and 0: D5), in every state of the invariant. -/
def Obligations.CursorDisplayShiftMovesOneOfTwo : Prop :=
  ∀ (sc rl : Bool) (s : State), s.Inv →
    exec (.cursorDisplayShift sc rl) s = .next { s with ctl := { s.ctl with
      dispShift :=
        if sc then ringShift s.cfg.displayRing (if rl then .inc else .dec) s.ctl.dispShift else s.ctl.dispShift,
      ac := if sc then s.ctl.ac else ringStep s.ctl.bank s.ctl.numLines (if rl then .inc else .dec) s.ctl.ac,
      busy := true, busyDeadline := s.busyUntil s.cfg.tShort, firstCmd := false } }

/-- Rules R81, R82 (which bit is which: D1; the reading of the condition: D29): the first command, a command that
changes the width, and a command that changes neither the lines nor the height are accepted. -/
def Obligations.FunctionSetAcceptedWritesTheModes : Prop :=
  ∀ (dl n f : Bool) (s : State),
    (s.ctl.firstCmd = true ∨ (if dl then DataLen.eight else .four) ≠ s.ctl.dataLen ∨
      ((if n then LineCount.two else .one) = s.ctl.numLines ∧ (if f then GlyphHeight.ten else .eight) = s.ctl.glyphH)) →
    exec (.functionSet dl n f) s = .next { s with ctl := { s.ctl with
      dataLen := if dl then .eight else .four,
      numLines := if n then .two else .one,
      glyphH := if f then .ten else .eight,
      ac := correctedAddress s.ctl.bank (if n then .two else .one) s.ctl.ac,
      busy := true, busyDeadline := s.busyUntil s.cfg.tShort, firstCmd := false } }

/-- Rules R82, R130 (D29, D31): a rejected Function Set completes with one entry in the trace, code 3 and IR, and
changes nothing else; busy is not armed. -/
def Obligations.FunctionSetRejectedOnlyReports : Prop :=
  ∀ (dl n f : Bool) (s : State),
    s.ctl.firstCmd = false → (if dl then DataLen.eight else .four) = s.ctl.dataLen →
    ((if f then GlyphHeight.ten else .eight) ≠ s.ctl.glyphH ∨ (if n then LineCount.two else .one) ≠ s.ctl.numLines) →
    exec (.functionSet dl n f) s =
      .next { s with trace := s.trace ++ [{ time := s.now, code := .functionSetRejected, info := s.ctl.ir.toNat }] }

/-- Rule R80, with its corner cases: the command's bytes, its effect, and that the bank then stays CGRAM, and data
writes go there, until a SET_DDRAM_ADDR, RETURN_HOME or CLEAR_DISPLAY. -/
def Obligations.SetCgramAddrSelectsTheBank : Prop :=
  (∀ a : BitVec 6, decodeCommand (0b01#2 ++ a) = .setCgramAddr a) ∧
  (∀ (a : BitVec 6) (s : State),
    exec (.setCgramAddr a) s = .next { s with ctl := { s.ctl with
      bank := .cgram, ac := a.zeroExtend 7,
      busy := true, busyDeadline := s.busyUntil s.cfg.tShort, firstCmd := false } }) ∧
  (∀ (i : Instr) (s t : State), s.ctl.bank = .cgram → exec i s = .next t →
    t.ctl.bank = .cgram ∨ (∃ a, i = .setDdramAddr a) ∨ i = .returnHome ∨ i = .clearDisplay) ∧
  (∀ (v : Byte) (s t : State), s.ctl.bank = .cgram → exec (.dataWrite v) s = .next t →
    t.ctl.ddram = s.ctl.ddram ∧
    (s.Inv → s.ctl.busy = false → t.ctl.memRead .cgram s.ctl.ac.toNat = v))

/-- Rule R79 (the address above 0x67 in two-line mode: D5): the bank is DDRAM before the correction, whatever it was. -/
def Obligations.SetDdramAddrCorrectsTheAddress : Prop :=
  ∀ (a : BitVec 7) (s : State),
    exec (.setDdramAddr a) s = .next { s with ctl := { s.ctl with
      bank := .ddram, ac := correctedAddress .ddram s.ctl.numLines a,
      busy := true, busyDeadline := s.busyUntil s.cfg.tShort, firstCmd := false } }

/-- Rule R90 (D37): whether the controller is busy, and until when, makes no difference to a command that arms busy. -/
def Obligations.CommandsIgnoreAndSupersedeBusy : Prop :=
  ∀ (w : Byte) (b : Bool) (dl : Option Time) (s : State),
    w ≠ 0x00 → (∀ x y z, decodeCommand w = .functionSet x y z → s.ctl.functionSetRejected x y z = false) →
    exec (decodeCommand w) { s with ctl := { s.ctl with busy := b, busyDeadline := dl } } = exec (decodeCommand w) s ∧
    ∃ (t : State) (base : Time), exec (decodeCommand w) s = .next t ∧ t.ctl.busy = true ∧
      t.ctl.busyDeadline = s.busyUntil base ∧ (base = s.cfg.tShort ∨ base = s.cfg.tLong)

/-! ### The data channel and the status read -/

/-- Rules R92, R93 (shift on write for both banks: D13; the two-line wrap: D5): an accepted data write stores its byte
at AC, and only there; then AC moves, the display shifts if it is enabled, and busy is armed. -/
def Obligations.DataWriteStoresAtTheAddressCounter : Prop :=
  ∀ (v : Byte) (s : State), s.Inv → s.ctl.busy = false →
    ∃ t : State,
      exec (.dataWrite v) s = .next t ∧
      (∀ (b : Bank) (a : Nat),
        t.ctl.memRead b a = if b = s.ctl.bank ∧ a = s.ctl.ac.toNat then v else s.ctl.memRead b a) ∧
      t = { s with ctl := { s.ctl with
              ddram := t.ctl.ddram, cgram := t.ctl.cgram, dr := v,
              ac := ringStep s.ctl.bank s.ctl.numLines s.ctl.direction s.ctl.ac,
              dispShift :=
                if s.ctl.shiftOn then ringShift s.cfg.displayRing s.ctl.direction s.ctl.dispShift else s.ctl.dispShift,
              busy := true, busyDeadline := s.busyUntil s.cfg.tMedium } }

/-- Rules R96, R129 (the returned value: D11): while busy, a data write and a data read change nothing but the trace,
in either width and either phase; the read returns DROPPED_READ_VALUE. -/
def Obligations.BusyDataOperationsAreDropped : Prop :=
  ∀ s : State, s.ctl.busy = true →
    (∀ v : Byte, exec (.dataWrite v) s =
      .next { s with trace := s.trace ++ [{ time := s.now, code := .dataWriteDropped, info := v.toNat }] }) ∧
    exec .dataRead s =
      .next { s with
        trace := s.trace ++ [{ time := s.now, code := .dataReadDropped, info := s.ctl.ac.toNat }],
        reply := some (.byte s.cfg.droppedReadValue) }

/-- Rule R94 (D12; the two-line wrap: D5): an accepted data read in 8-bit mode. -/
def Obligations.DataReadReturnsTheCell : Prop :=
  ∀ s : State, s.Inv → s.ctl.busy = false → s.ctl.dataLen = .eight →
    exec .dataRead s = .next { s with
      reply := some (.byte (s.ctl.memRead s.ctl.bank s.ctl.ac.toNat)),
      ctl := { s.ctl with
        ac := ringStep s.ctl.bank s.ctl.numLines s.ctl.direction s.ctl.ac,
        busy := true, busyDeadline := s.busyUntil s.cfg.tMedium } }

/-- Rule R106 (D12, D35): the two nibbles of a data read in 4-bit mode; the side effects come with the second. -/
def Obligations.DataReadNibbles : Prop :=
  ∀ s : State, s.Inv → s.ctl.busy = false → s.ctl.dataLen = .four →
    ∃ v : Byte,
      (s.ctl.phase = .high → exec .dataRead s =
        .next { s with reply := some (.byte v), ctl := { s.ctl with phase := .low } }) ∧
      (s.ctl.phase = .low → exec .dataRead s =
        .next { s with
          reply := some (.byte v),
          ctl := { s.ctl with
            phase := .high,
            ac := ringStep s.ctl.bank s.ctl.numLines s.ctl.direction s.ctl.ac,
            busy := true, busyDeadline := s.busyUntil s.cfg.tMedium } }) ∧
      v.extractLsb' 0 4 = 0 ∧
      v.extractLsb' 4 4 =
        (s.ctl.memRead s.ctl.bank s.ctl.ac.toNat).extractLsb' (if s.ctl.phase = .high then 4 else 0) 4

/-- Rules R70, R95 (the byte's layout: D2): a status read in 8-bit mode completes in every state and changes
nothing; bit 7 is the busy flag and bits 6:0 are AC. -/
def Obligations.StatusReadReturnsBusyAndAddress : Prop :=
  ∀ s : State, s.ctl.dataLen = .eight →
    ∃ v : Byte, exec .statusRead s = .next { s with reply := some (.byte v) } ∧
      v.getLsbD 7 = s.ctl.busy ∧ v.extractLsb' 0 7 = s.ctl.ac

/-- Rules R71, R105 (the lanes: D2, D3): the two nibbles of a status read in 4-bit mode. -/
def Obligations.StatusReadNibbles : Prop :=
  ∀ s : State, s.ctl.dataLen = .four →
    ∃ v : Byte,
      exec .statusRead s = .next { s with
        reply := some (.byte v),
        ctl := { s.ctl with phase := if s.ctl.phase = .high then .low else .high } } ∧
      v.extractLsb' 0 4 = 0 ∧
      (s.ctl.phase = .high → v.getLsbD 7 = s.ctl.busy ∧ v.extractLsb' 4 3 = s.ctl.ac.extractLsb' 4 3) ∧
      (s.ctl.phase = .low → v.extractLsb' 4 4 = s.ctl.ac.extractLsb' 0 4)

/-- Rule R99 (D12): what an accepted data write stored, a data read returns after a SET_DDRAM_ADDR or SET_CGRAM_ADDR to
the same address, once busy is over. -/
def Obligations.DataReadAfterDataWrite : Prop :=
  ∀ (v : Byte) (s : State), s.Inv → s.ctl.busy = false → s.ctl.dataLen = .eight →
    ∃ t u w : State,
      exec (.dataWrite v) s = .next t ∧
      exec (match s.ctl.bank with
        | .ddram => .setDdramAddr s.ctl.ac
        | .cgram => .setCgramAddr (s.ctl.ac.truncate 6)) t = .next u ∧
      exec .dataRead (fire .busy u) = .next w ∧
      w.reply = some (.byte v)

/-! ### The interface -/

/-- Rules R100, R102, R77: in 8-bit mode, the step that delivers a transaction word is `exec` of the decoded word,
after the levels are recorded (D19) and, for a command, IR is loaded. -/
def Obligations.StepRunsTheDecodedWordInEightBitMode : Prop :=
  ∀ (s : State) (d : Delivery) (rest : List Delivery) (t : Time) (w : BusWord),
    s.cfg.check = none → s.upcoming = .host d rest t → d.event = eventOfWord w → s.ctl.dataLen = .eight →
    step s = exec (decode w) { s with
      now := t, inbox := rest, reply := none,
      ctl := { s.ctl with
        lastRs := busRs w, lastRw := busRw w,
        ir := if busRs w = false ∧ busRw w = false then busDb w else s.ctl.ir } }

/-- Rules R101, R103, R104 (the nibble lanes: D3, the level check: D19): in 4-bit mode the first write transaction holds
its nibble, the second completes the byte, and the step is then `exec` of the completed operation. A change of level
makes a transaction a first one. -/
def Obligations.StepPairsWriteNibbles : Prop :=
  ∀ (s : State) (d : Delivery) (rest : List Delivery) (t : Time) (rs : Bool) (db : Byte),
    s.cfg.check = none → s.upcoming = .host d rest t → d.event = .write rs db → s.ctl.dataLen = .four →
    (rs = true → s.ctl.busy = false) →
    (s.ctl.phase = .high ∨ rs ≠ s.ctl.lastRs ∨ s.ctl.lastRw = true →
      step s = .next { s with
        now := t, inbox := rest, reply := none,
        ctl := { s.ctl with
          lastRs := rs, lastRw := false, phase := .low,
          ir := if rs then s.ctl.ir else db.extractLsb' 4 4 ++ 0#4,
          dr := if rs then db.extractLsb' 4 4 ++ 0#4 else s.ctl.dr } }) ∧
    (s.ctl.phase = .low ∧ rs = s.ctl.lastRs ∧ s.ctl.lastRw = false →
      ∃ b : Byte,
        b = (if rs then s.ctl.dr else s.ctl.ir).extractLsb' 4 4 ++ db.extractLsb' 4 4 ∧
        step s = exec (if rs then .dataWrite b else decodeCommand b) { s with
          now := t, inbox := rest, reply := none,
          ctl := { s.ctl with
            lastRs := rs, lastRw := false, phase := .high,
            ir := if rs then s.ctl.ir else b,
            dr := if rs then b else s.ctl.dr } })

/-- Rules R100, R101, R105, R106 (the level check: D19; the phases of a data read: D12): in 4-bit mode, the step that
delivers a read which the busy gate lets through is `exec` of the read, with the levels recorded and IR and DR as they
were; the phase is HIGH after a change of level, and else what it was. -/
def Obligations.StepRunsReadTransactionsInFourBitMode : Prop :=
  ∀ (s : State) (d : Delivery) (rest : List Delivery) (t : Time) (rs : Bool),
    s.cfg.check = none → s.upcoming = .host d rest t → d.event = .read rs → s.ctl.dataLen = .four →
    (rs = true → s.ctl.busy = false) →
    step s = exec (if rs then .dataRead else .statusRead) { s with
      now := t, inbox := rest, reply := none,
      ctl := { s.ctl with
        lastRs := rs, lastRw := true,
        phase := if rs ≠ s.ctl.lastRs ∨ s.ctl.lastRw = false then .high else s.ctl.phase } }

/-- Rules R77, R100 (the placement itself is the model's: log entry 8): a table word placed by `withFetchWord` is what
the very next step runs, in either width. The one exception is a 4-bit data write while busy, whose transaction is
dropped. -/
def Obligations.PlacedWordIsRunByTheNextStep : Prop :=
  ∀ (s : State) (w : BusWord), s.Inv →
    ¬(s.ctl.dataLen = .four ∧ s.ctl.busy = true ∧ busRs w = true ∧ busRw w = false) →
    decodeTableWord 16 w.toNat = some (decode w) ∧
    step (s.withFetchWord 16 w.toNat) = exec (decode w) { s with
      reply := none,
      ctl := { s.ctl with
        lastRs := busRs w, lastRw := busRw w,
        ir := if busRs w = false ∧ busRw w = false then busDb w else s.ctl.ir,
        dr := if s.ctl.dataLen = .four ∧ busRs w = true ∧ busRw w = false then busDb w else s.ctl.dr,
        phase :=
          if s.ctl.dataLen = .four ∧ (busRw w = false ∨ busRs w ≠ s.ctl.lastRs ∨ s.ctl.lastRw = false) then .high
          else s.ctl.phase } }

/-- Rules R96, R100, R107 (D11, D19): a data-channel transaction while busy, in either width, records the levels (and,
in 4-bit mode, a change of level restarts the pairing), adds one entry to the trace and does nothing else. -/
def Obligations.BusyGateDropsTheTransaction : Prop :=
  ∀ (rw : Bool) (db : Byte) (s : State), s.ctl.busy = true →
    transact true rw db s = .next { s with
      ctl := { s.ctl with
        lastRs := true, lastRw := rw,
        phase := if s.ctl.dataLen = .four ∧ (s.ctl.lastRs = false ∨ rw ≠ s.ctl.lastRw) then .high else s.ctl.phase },
      trace := s.trace ++ [{
        time := s.now,
        code := if rw then .dataReadDropped else .dataWriteDropped,
        info := if rw then s.ctl.ac.toNat else db.toNat }],
      reply := if rw then some (.byte s.cfg.droppedReadValue) else s.reply }

/-- Rule R113. In 4-bit mode, for every byte, two nibble transactions leave IR and DR as one 8-bit transaction of the
byte does at the time of the second (the document's own words: "the same resulting register value"). They leave every
other element but the width the same too, for every byte that is no Function Set and for a Function Set that is the
first command or changes neither the lines nor the height. For every other Function Set rule R82 decides otherwise:
`FunctionSetBreaksTheNibbleLaw`. The 8-bit state has phase HIGH, as every 8-bit state does (rule R38). -/
def Obligations.NibblePairEqualsByteWrite : Prop :=
  ∀ (s : State) (t1 t2 : Time) (rs : Bool) (v : Byte),
    s.ctl.dataLen = .four → (rs = true → s.ctl.busy = false) →
    (s.ctl.phase = .high ∨ rs ≠ s.ctl.lastRs ∨ s.ctl.lastRw = true) →
    ∃ (s1 : State) (pair whole : Host.Outcome State Fault Refusal),
      transact rs false (v &&& 0xF0) { s with now := t1 } = .next s1 ∧
      pair = transact rs false ((v <<< 4) &&& 0xF0#8) { s1 with now := t2 } ∧
      whole = transact rs false v { s with now := t2, ctl := { s.ctl with dataLen := .eight, phase := .high } } ∧
      andThen pair (fun u => { s with ctl := { s.ctl with ir := u.ctl.ir, dr := u.ctl.dr } }) =
        andThen whole (fun u => { s with ctl := { s.ctl with ir := u.ctl.ir, dr := u.ctl.dr } }) ∧
      ((rs = false → ∀ dl n f, decodeCommand v = .functionSet dl n f →
          s.ctl.firstCmd = true ∨
          ((if n then LineCount.two else .one) = s.ctl.numLines ∧ (if f then GlyphHeight.ten else .eight) = s.ctl.glyphH)) →
        andThen pair (fun u => { u with ctl := { u.ctl with dataLen := .eight } }) =
          andThen whole (fun u => { u with ctl := { u.ctl with dataLen := .eight } }))

/-- Log entry 20 (the model follows rules R81, R82 and R103, and vectors I11 and P2): a Function Set byte that is not the
first command and changes the lines or the height is accepted in one width and rejected in the other. As two nibbles it
is accepted when it names 8 bits, as one 8-bit transaction when it names 4 bits: the accepted one writes the lines and
the height and arms busy, the rejected one reports code 3 and leaves them. -/
def Obligations.FunctionSetBreaksTheNibbleLaw : Prop :=
  (∃ s : State, s.Inv ∧ s.ctl.dataLen = .four ∧ s.ctl.phase = .high ∧ s.ctl.firstCmd = false ∧
    s.ctl.numLines = .one) ∧
  ∀ (s : State) (v : Byte) (dl n f : Bool),
    s.ctl.dataLen = .four → (s.ctl.phase = .high ∨ s.ctl.lastRs = true ∨ s.ctl.lastRw = true) →
    decodeCommand v = .functionSet dl n f → s.ctl.firstCmd = false →
    ((if n then LineCount.two else .one) ≠ s.ctl.numLines ∨ (if f then GlyphHeight.ten else .eight) ≠ s.ctl.glyphH) →
    ∃ s1 pair whole : State,
      transact false false (v &&& 0xF0) s = .next s1 ∧
      transact false false ((v <<< 4) &&& 0xF0#8) s1 = .next pair ∧
      transact false false v { s with ctl := { s.ctl with dataLen := .eight, phase := .high } } = .next whole ∧
      (∀ u : State, u = (if dl then pair else whole) →
        u.ctl.numLines = (if n then .two else .one) ∧ u.ctl.glyphH = (if f then .ten else .eight) ∧
        u.ctl.busy = true ∧ u.ctl.busyDeadline = s.busyUntil s.cfg.tShort ∧ u.trace = s.trace) ∧
      (∀ u : State, u = (if dl then whole else pair) →
        u.ctl.numLines = s.ctl.numLines ∧ u.ctl.glyphH = s.ctl.glyphH ∧
        u.ctl.busy = s.ctl.busy ∧ u.ctl.busyDeadline = s.ctl.busyDeadline ∧
        u.trace = s.trace ++ [{ time := s.now, code := .functionSetRejected, info := v.toNat }]) ∧
      pair.ctl.dataLen = (if dl then .eight else .four) ∧ whole.ctl.dataLen = (if dl then .eight else .four)

/-- Rules R109 to R112 (the edges: D20): the three-line calls are exactly the bus transaction, up to the latches. A
write is taken on the falling edge, a read on the rising one, and `getDataBus` returns the read's byte. -/
def Obligations.ThreeLineCallsEqualBusTransactions : Prop :=
  ∀ (rs : Bool) (v : Byte) (s : State), s.ctl.eLevel = false →
    deliverAll [.setRegisterSelect rs, .setReadWrite false, .setDataBus v, .latch true, .latch false] s =
      andThen (deliver (.write rs v) s) (fun t =>
        { t with ctl := { t.ctl with rsIn := rs, rwIn := false, dbIn := v, eLevel := false } }) ∧
    deliverAll [.setRegisterSelect rs, .setReadWrite true, .latch true, .getDataBus, .latch false] s =
      andThen (deliver (.read rs) s) (fun t =>
        { t with ctl := { t.ctl with
            rsIn := rs, rwIn := true, eLevel := false, dbOut := Reply.toByte t.reply } })

/-- Rules R109, R111, R112 (D20): the setters only record a level, a `latch` call that is no edge changes nothing, and
`getDataBus` returns `db_out`. -/
def Obligations.ThreeLineSettersOnlyRecord : Prop :=
  ∀ s : State,
    (∀ b, deliver (.setRegisterSelect b) s = .next { s with ctl := { s.ctl with rsIn := b } }) ∧
    (∀ b, deliver (.setReadWrite b) s = .next { s with ctl := { s.ctl with rwIn := b } }) ∧
    (∀ v, deliver (.setDataBus v) s = .next { s with ctl := { s.ctl with dbIn := v } }) ∧
    deliver (.latch s.ctl.eLevel) s = .next s ∧
    deliver .getDataBus s = .next { s with reply := some (.byte s.ctl.dbOut) }

/-! ### Timers and delivery -/

/-- Rule R138. -/
def Obligations.BusyExpiryClearsBusyOnly : Prop :=
  ∀ (s : State) (t : Time), s.cfg.check = none → s.upcoming = .timer .busy t →
    s.ctl.busyDeadline = some t ∧
    step s = .next { s with now := t, reply := none, ctl := { s.ctl with busy := false, busyDeadline := none } }

/-- Rule R139: `isBusy` returns busy and changes nothing else; bit 7 of an 8-bit status read is the same flag. -/
def Obligations.IsBusyReturnsTheStatusBit : Prop :=
  ∀ s : State,
    deliver .isBusy s = .next { s with reply := some (.flag s.ctl.busy) } ∧
    (s.ctl.dataLen = .eight → ∃ v : Byte, exec .statusRead s = .next { s with reply := some (.byte v) } ∧
      v.getLsbD 7 = s.ctl.busy)

/-- Rule R140 (D17, D36): TIMING_FACTOR plays no part, nor do the display flags. Of the host events still to come, the
next one, if it is due at that time, has one firing less to wait for (D21). -/
def Obligations.BlinkFiringTogglesThePhase : Prop :=
  ∀ (s : State) (t : Time), s.cfg.check = none → s.upcoming = .timer .blink t →
    t = s.ctl.blinkDeadline ∧
    step s = .next { s with
      now := t, reply := none,
      inbox := (match s.inbox with
        | [] => []
        | d :: rest =>
          { d with blinkFirst := if max s.now d.time = t then d.blinkFirst - 1 else d.blinkFirst } :: rest),
      ctl := { s.ctl with blinkPhase := !s.ctl.blinkPhase, blinkDeadline := s.ctl.blinkDeadline + s.cfg.tBlink } }

/-- Rule R141 (D32): a host event is delivered no earlier than the event before it and than its stamp, in inbox order,
and after every deadline before its time; so a transaction after the busy deadline sees busy over. -/
def Obligations.HostEventsComeAfterEarlierDeadlines : Prop :=
  ∀ (s : State) (d : Delivery) (rest : List Delivery) (t : Time), s.upcoming = .host d rest t →
    s.inbox = d :: rest ∧ s.now ≤ t ∧ d.time ≤ t ∧ t ≤ s.ctl.blinkDeadline ∧
    ∀ b, s.ctl.busyDeadline = some b → t ≤ b

/-- Rule R134 (D21): when a host event and a timer firing fall at the same time, both orders are runs of the machine.
The event sees busy in one order and not in the other. The blink timer fires exactly as often before the event as the
delivery says: at most once where it then has a later deadline, and any number of times where T_BLINK is 0. -/
def Obligations.SimultaneousOrderIsTheSchedulersChoice : Prop :=
  ∀ (s : State) (d : Delivery) (rest : List Delivery), s.Inv → s.inbox = d :: rest →
    (s.ctl.busyDeadline = some d.time →
      d.time < s.ctl.blinkDeadline ∨ d.time = s.ctl.blinkDeadline ∧ d.blinkFirst = 0 →
      (d.busyFirst = false → step s = deliver d.event { s with now := d.time, inbox := rest, reply := none }) ∧
      (d.busyFirst = true → ∃ t : State, step s = .next t ∧ t.ctl.busy = false ∧ t.now = d.time ∧
        step t = deliver d.event { t with now := d.time, inbox := rest, reply := none })) ∧
    (s.ctl.blinkDeadline = d.time →
      (∀ b, s.ctl.busyDeadline = some b → d.time < b ∨ d.time = b ∧ d.busyFirst = false) →
      (d.blinkFirst = 0 → step s = deliver d.event { s with now := d.time, inbox := rest, reply := none }) ∧
      ∀ n, d.blinkFirst = n + 1 → ∃ t : State, step s = .next t ∧ t.now = d.time ∧
        t.ctl = { s.ctl with
          blinkPhase := !s.ctl.blinkPhase, blinkDeadline := s.ctl.blinkDeadline + s.cfg.tBlink } ∧
        t.inbox = { d with blinkFirst := n } :: rest ∧
        (n = 0 ∨ 0 < s.cfg.tBlink →
          step t = deliver d.event { t with now := d.time, inbox := rest, reply := none }))

/-- Rule R160 (D17): from a reset on (power-on or the event in mid-run), with no reset since, the blink phase is false
in the even half-periods and true in the odd ones; every other step keeps the half-period or moves to the next one. -/
def Obligations.BlinkPhaseAlternatesEveryPeriod : Prop :=
  (∀ (cfg : Config) (t0 : Time), cfg.check = none → (State.initial cfg t0).InBlinkHalf t0 0) ∧
  (∀ s t : State, s.nextIsReset = true → step s = .next t → t.InBlinkHalf t.now 0) ∧
  ∀ (s t : State) (t0 : Time) (k : Nat), s.Inv → s.InBlinkHalf t0 k → s.nextIsReset = false → step s = .next t →
    t.InBlinkHalf t0 k ∨ (t.InBlinkHalf t0 (k + 1) ∧ t.now = t0 + ((k : Rat) + 1) * s.cfg.tBlink)

/-! ### Reset and construction -/

/-- Rule R145 (the values the source does not give: D7, D8, D17, D20, D30): the reset event sets every element; the trace, the
parameters and the rest of the inbox are kept. -/
def Obligations.ResetEventSetsEveryElement : Prop :=
  ∀ s : State, ∃ t : State, deliver .reset s = .next t ∧
    (∀ a, t.ctl.memRead .ddram a = 0x20) ∧ (∀ a, t.ctl.memRead .cgram a = 0x00) ∧
    t = { s with ctl := {
      ddram := t.ctl.ddram, cgram := t.ctl.cgram, ac := 0, bank := .ddram, ir := 0x00, dr := 0x00,
      dataLen := .eight, numLines := .one, glyphH := .eight,
      displayOn := false, cursorOn := false, blinkOn := false, shiftOn := false,
      direction := .inc, dispShift := 0, firstCmd := true,
      busy := true, busyDeadline := s.busyUntil s.cfg.tLong,
      phase := .high, lastRs := false, lastRw := false,
      blinkPhase := false, blinkDeadline := s.now + s.cfg.tBlink,
      rsIn := false, rwIn := false, dbIn := 0x00, eLevel := false, dbOut := 0x00 } }

/-- Rule R131 (D33): a geometry outside 1 to 4 lines with no placement strategy is refused at construction, and no step
exists for it; one inside is built. The conditions on the sizes are the model's (log entry 12); rule R5's values meet
them. -/
def Obligations.UnsupportedGeometryIsRefused : Prop :=
  ∀ (cfg : Config) (t : Time),
    ((cfg.physicalLines = 0 ∨ 4 < cfg.physicalLines) → cfg.placementSupplied = false →
      State.powerOn cfg t = .refused (.badConfiguration (.unsupportedGeometry cfg.physicalLines)) ∧
      geometryDiag cfg t = some { time := t, code := .unsupportedGeometry, info := cfg.physicalLines } ∧
      ∀ s : State, s.cfg = cfg → step s = .refused (.badConfiguration (.unsupportedGeometry cfg.physicalLines))) ∧
    ((cfg.placementSupplied = true ∨ (1 ≤ cfg.physicalLines ∧ cfg.physicalLines ≤ 4)) →
      0 < cfg.timingFactor → 0 ≤ cfg.tShort → 0 ≤ cfg.tMedium → 0 ≤ cfg.tLong → 0 ≤ cfg.tBlink →
      0x68 ≤ cfg.ddramSize → 0x40 ≤ cfg.cgramSize →
      0 < cfg.displayRing → cfg.displayRing % 2 = 0 → cfg.displayRing ≤ cfg.ddramSize →
      0x40 + cfg.displayRing / 2 ≤ cfg.ddramSize →
      State.powerOn cfg t = .next (State.initial cfg t))

/-! ### The renderer -/

/-- Rule R114: `render()` depends only on the elements it names, and the event changes nothing but the reply. -/
def Obligations.RenderReadsOnlyWhatItNames : Prop :=
  (∀ (cfg cfg' : Config) (c c' : Controller),
    cfg.variant = cfg'.variant → cfg.glyphFullRow = cfg'.glyphFullRow → cfg.displayRing = cfg'.displayRing →
    c.displayOn = c'.displayOn → c.numLines = c'.numLines → c.glyphH = c'.glyphH → c.dispShift = c'.dispShift →
    c.ddram = c'.ddram → c.cgram = c'.cgram → c.ac = c'.ac →
    c.cursorOn = c'.cursorOn → c.blinkOn = c'.blinkOn → c.blinkPhase = c'.blinkPhase →
    render cfg c = render cfg' c') ∧
  ∀ s : State, deliver .render s = .next { s with reply := some (.picture (render s.cfg s.ctl)) }

/-- Rules R115, R116, R124 (the buffer's shape: D15): `num_lines` lines of DISPLAY_RING / `num_lines` cells of 16 rows; all zero
with the display off, and zero from row `glyph_h` on. -/
def Obligations.RenderBufferShape : Prop :=
  ∀ (cfg : Config) (c : Controller),
    (render cfg c).length = (if c.numLines = .one then 1 else 2) ∧
    (∀ cells ∈ render cfg c, cells.length = cfg.displayRing / (if c.numLines = .one then 1 else 2) ∧
      ∀ rows ∈ cells, rows.length = 16 ∧
        (c.displayOn = false → ∀ b ∈ rows, b = 0x00) ∧
        ∀ r, (if c.glyphH = .eight then 8 else 10) ≤ r → r < 16 → rows[r]? = some 0x00)

/-- Rules R117 to R121 (the position formula: D14): a cell that the cursor does not mark shows the rows of its
character code, from CGRAM below 0x10 (the low 3 or 2 code bits select the bank), else from FONT. -/
def Obligations.RenderShowsTheGlyphOfTheCode : Prop :=
  ∀ (cfg : Config) (c : Controller) (l p r : Nat),
    c.displayOn = true → l < (if c.numLines = .one then 1 else 2) →
    p < cfg.displayRing / (if c.numLines = .one then 1 else 2) →
    r < (if c.glyphH = .eight then 8 else 10) →
    (l * 0x40 + (p + c.dispShift) % (cfg.displayRing / (if c.numLines = .one then 1 else 2)) ≠ c.ac.toNat ∨
      (c.cursorOn = false ∧ c.blinkOn = false)) →
    ∃ code : Byte,
      code = c.memRead .ddram (l * 0x40 + (p + c.dispShift) % (cfg.displayRing / (if c.numLines = .one then 1 else 2))) ∧
      (render cfg c).row l p r = some (
        if 0x10 ≤ code.toNat then cfg.font (BitVec.ofNat 12 (code.toNat * 16 + r))
        else if c.glyphH = .eight then c.memRead .cgram (code.toNat % 8 * 8 + r)
        else c.memRead .cgram (code.toNat % 4 * 16 + r))

/-- Rules R122, R123 (D18; the "off" half: D17): at the cell whose position equals AC, whatever the bank, the block covers
every glyph row in the "off" half of the blink, and else the underline replaces the last glyph row; every other glyph
row is the glyph's own. -/
def Obligations.RenderMarksTheCursorCell : Prop :=
  ∀ (cfg : Config) (c : Controller) (l p : Nat),
    c.displayOn = true → l < (if c.numLines = .one then 1 else 2) →
    p < cfg.displayRing / (if c.numLines = .one then 1 else 2) →
    l * 0x40 + (p + c.dispShift) % (cfg.displayRing / (if c.numLines = .one then 1 else 2)) = c.ac.toNat →
    (c.blinkOn = true → c.blinkPhase = false → ∀ r, r < (if c.glyphH = .eight then 8 else 10) →
      (render cfg c).row l p r = some cfg.glyphFullRow) ∧
    (c.cursorOn = true →
      (render cfg c).row l p (if c.glyphH = .eight then 7 else 9) = some cfg.glyphFullRow) ∧
    ((c.blinkOn = false ∨ c.blinkPhase = true) → ∀ r, r < (if c.glyphH = .eight then 8 else 10) →
      (c.cursorOn = false ∨ r + 1 ≠ (if c.glyphH = .eight then 8 else 10)) →
      (render cfg c).row l p r = (render cfg { c with cursorOn := false, blinkOn := false }).row l p r)

/-- Rule R117 (D14): on the ring of 80 positions, whatever the display shift, every valid DDRAM address of the mode is
shown by exactly one cell. -/
def Obligations.EveryValidAddressIsShownExactlyOnce : Prop :=
  ∀ (c : Controller) (a : BitVec 7), Controller.acValid { c with bank := .ddram, ac := a } = true →
    ∃ l p : Nat, l < c.numLines.toNat ∧ p < c.numLines.cells 80 ∧ c.cellAddress 80 l p = a.toNat ∧
      ∀ l' p' : Nat, l' < c.numLines.toNat → p' < c.numLines.cells 80 → c.cellAddress 80 l' p' = a.toNat →
        l' = l ∧ p' = p

/-- Rules R52, R92, R121 (D14): the code that a data write stores shows in the next `render()` at the pre-increment
position, with AC moved on from it. -/
def Obligations.WrittenCodeShowsAtThePreIncrementPosition : Prop :=
  ∀ (v : Byte) (s t : State) (l p r : Nat), s.Inv → s.ctl.busy = false → s.ctl.bank = .ddram → s.ctl.displayOn = true →
    0x10 ≤ v.toNat → exec (.dataWrite v) s = .next t →
    l < t.ctl.numLines.toNat → p < t.ctl.numLines.cells t.cfg.displayRing →
    t.ctl.cellAddress t.cfg.displayRing l p = s.ctl.ac.toNat →
    r < t.ctl.glyphH.toNat →
    t.ctl.ac ≠ s.ctl.ac ∧
    (render t.cfg t.ctl).row l p r = some (t.cfg.font (BitVec.ofNat 12 (v.toNat * 16 + r)))

/-! ### Rules of the whole machine -/

/-- Rules R38, R141: the invariant holds after reset. -/
def Obligations.InvariantHoldsAtReset : Prop :=
  State.reset.Inv ∧ State.reset.FirstCommandModes

/-- Rules R17, R31, R38, R141: every step keeps the invariant. -/
def Obligations.EveryStepKeepsTheInvariant : Prop :=
  ∀ s t : State, s.Inv → step s = .next t → t.Inv

/-- Rules R30, R89, R145: while `first_cmd` is true, every mode element is at its reset value; every step keeps this. -/
def Obligations.EveryStepKeepsTheFirstCommandModes : Prop :=
  ∀ s t : State, s.FirstCommandModes → step s = .next t → t.FirstCommandModes

/-- Rule R127, in every state of the invariant (which includes rule R131's configuration): no event fails. The query
and read events answer. -/
def Obligations.NoEventFails : Prop :=
  ∀ s : State, s.Inv → ∃ t : State, step s = .next t ∧
    ∀ (d : Delivery) (rest : List Delivery) (u : Time), s.upcoming = .host d rest u →
      (∀ rs, d.event = .read rs → ∃ v, t.reply = some (.byte v)) ∧
      (d.event = .getDataBus → ∃ v, t.reply = some (.byte v)) ∧
      (d.event = .isBusy → t.reply = some (.flag s.ctl.busy)) ∧
      (d.event = .render → ∃ b, t.reply = some (.picture b))

/-- Rules R14, R54: only an accepted data write to DDRAM, Clear Display and reset change DDRAM, and a data write changes the
cell at AC alone. -/
def Obligations.OnlyNamedEventsChangeDdram : Prop :=
  ∀ (s t : State) (a : Nat), s.Inv → step s = .next t → t.ctl.memRead .ddram a ≠ s.ctl.memRead .ddram a →
    s.nextIsReset = true ∨ s.nextInstr = some .clearDisplay ∨
    (∃ v, s.nextInstr = some (.dataWrite v)) ∧ s.ctl.bank = .ddram ∧ s.ctl.busy = false ∧ a = s.ctl.ac.toNat

/-- Rule R15: only an accepted data write to CGRAM and reset change CGRAM, and a data write changes the cell at AC
alone. -/
def Obligations.OnlyNamedEventsChangeCgram : Prop :=
  ∀ (s t : State) (a : Nat), s.Inv → step s = .next t → t.ctl.memRead .cgram a ≠ s.ctl.memRead .cgram a →
    s.nextIsReset = true ∨
    (∃ v, s.nextInstr = some (.dataWrite v)) ∧ s.ctl.bank = .cgram ∧ s.ctl.busy = false ∧ a = s.ctl.ac.toNat

/-- Rules R18, R21 to R29 (each element's writers; shift on write: D13): which operation a step must complete, if it is
no reset, to change the bank or a mode element. -/
def Obligations.OnlyNamedCommandsChangeTheModes : Prop :=
  ∀ s t : State, step s = .next t → s.nextIsReset = false →
    (t.ctl.dataLen ≠ s.ctl.dataLen ∨ t.ctl.numLines ≠ s.ctl.numLines ∨ t.ctl.glyphH ≠ s.ctl.glyphH →
      ∃ dl n f, s.nextInstr = some (.functionSet dl n f) ∧ s.ctl.functionSetRejected dl n f = false) ∧
    (t.ctl.displayOn ≠ s.ctl.displayOn ∨ t.ctl.cursorOn ≠ s.ctl.cursorOn ∨ t.ctl.blinkOn ≠ s.ctl.blinkOn →
      ∃ d c b, s.nextInstr = some (.displayControl d c b)) ∧
    (t.ctl.shiftOn ≠ s.ctl.shiftOn → ∃ id sh, s.nextInstr = some (.entryModeSet id sh)) ∧
    (t.ctl.direction ≠ s.ctl.direction →
      (∃ id sh, s.nextInstr = some (.entryModeSet id sh)) ∨ s.nextInstr = some .returnHome ∨
      s.nextInstr = some .clearDisplay) ∧
    (t.ctl.bank ≠ s.ctl.bank →
      (∃ a, s.nextInstr = some (.setDdramAddr a)) ∨ (∃ a, s.nextInstr = some (.setCgramAddr a)) ∨
      s.nextInstr = some .returnHome ∨ s.nextInstr = some .clearDisplay) ∧
    (t.ctl.dispShift ≠ s.ctl.dispShift →
      (∃ rl, s.nextInstr = some (.cursorDisplayShift true rl)) ∨
      ((∃ v, s.nextInstr = some (.dataWrite v)) ∧ s.ctl.busy = false ∧ s.ctl.shiftOn = true) ∨
      s.nextInstr = some .returnHome ∨ s.nextInstr = some .clearDisplay)

/-- Rules R30, R89 (NULL: D6): every command but Clear Display and a rejected Function Set leaves `first_cmd` false;
no other operation touches it; only a reset makes it true. -/
def Obligations.FirstCommandFlagBookkeeping : Prop :=
  (∀ (w : Byte) (s t : State), exec (decodeCommand w) s = .next t →
    t.ctl.firstCmd = (if w = 0x01 then s.ctl.firstCmd else false)) ∧
  (∀ (i : Instr) (s t : State), (∃ v, i = .dataWrite v) ∨ i = .dataRead ∨ i = .statusRead → exec i s = .next t →
    t.ctl.firstCmd = s.ctl.firstCmd) ∧
  ∀ s t : State, step s = .next t → s.ctl.firstCmd = false → t.ctl.firstCmd = true → s.nextIsReset = true

/-- Rules R5, R128, R134, R145: no step changes the parameters; the trace only grows, by at most one entry a step. -/
def Obligations.ParametersStayAndTheTraceGrows : Prop :=
  ∀ s t : State, step s = .next t → t.cfg = s.cfg ∧ ∃ new : List Diag, t.trace = s.trace ++ new ∧ new.length ≤ 1
end

