-- ==== Sys2Proof/Laws/State.lean ====
section
/-! SUPPORT. One lemma per field per update, so that no proof unfolds a record update. -/

namespace Sys2Proof.Machine


/-! ### `State.onCtl` -/

@[simp] theorem onCtl_cfg (s : State) (g : Controller → Controller) : (s.onCtl g).cfg = s.cfg := rfl
@[simp] theorem onCtl_ctl (s : State) (g : Controller → Controller) : (s.onCtl g).ctl = g s.ctl := rfl
@[simp] theorem onCtl_now (s : State) (g : Controller → Controller) : (s.onCtl g).now = s.now := rfl
@[simp] theorem onCtl_inbox (s : State) (g : Controller → Controller) : (s.onCtl g).inbox = s.inbox := rfl
@[simp] theorem onCtl_trace (s : State) (g : Controller → Controller) : (s.onCtl g).trace = s.trace := rfl
@[simp] theorem onCtl_reply (s : State) (g : Controller → Controller) : (s.onCtl g).reply = s.reply := rfl

/-! ### `State.raiseDiag` -/

@[simp] theorem raiseDiag_cfg (s : State) (k : DiagCode) (n : Nat) : (s.raiseDiag k n).cfg = s.cfg := rfl
@[simp] theorem raiseDiag_ctl (s : State) (k : DiagCode) (n : Nat) : (s.raiseDiag k n).ctl = s.ctl := rfl
@[simp] theorem raiseDiag_now (s : State) (k : DiagCode) (n : Nat) : (s.raiseDiag k n).now = s.now := rfl
@[simp] theorem raiseDiag_inbox (s : State) (k : DiagCode) (n : Nat) : (s.raiseDiag k n).inbox = s.inbox := rfl
@[simp] theorem raiseDiag_trace (s : State) (k : DiagCode) (n : Nat) : (s.raiseDiag k n).trace = s.trace ++ [{ time := s.now, code := k, info := n }] := rfl
@[simp] theorem raiseDiag_reply (s : State) (k : DiagCode) (n : Nat) : (s.raiseDiag k n).reply = s.reply := rfl

/-! ### `State.answer` -/

@[simp] theorem answer_cfg (s : State) (r : Reply) : (s.answer r).cfg = s.cfg := rfl
@[simp] theorem answer_ctl (s : State) (r : Reply) : (s.answer r).ctl = s.ctl := rfl
@[simp] theorem answer_now (s : State) (r : Reply) : (s.answer r).now = s.now := rfl
@[simp] theorem answer_inbox (s : State) (r : Reply) : (s.answer r).inbox = s.inbox := rfl
@[simp] theorem answer_trace (s : State) (r : Reply) : (s.answer r).trace = s.trace := rfl
@[simp] theorem answer_reply (s : State) (r : Reply) : (s.answer r).reply = some r := rfl

/-! ### `State.armBusy` -/

@[simp] theorem armBusy_cfg (s : State) (b : Time) : (s.armBusy b).cfg = s.cfg := rfl
@[simp] theorem armBusy_now (s : State) (b : Time) : (s.armBusy b).now = s.now := rfl
@[simp] theorem armBusy_inbox (s : State) (b : Time) : (s.armBusy b).inbox = s.inbox := rfl
@[simp] theorem armBusy_trace (s : State) (b : Time) : (s.armBusy b).trace = s.trace := rfl
@[simp] theorem armBusy_reply (s : State) (b : Time) : (s.armBusy b).reply = s.reply := rfl
@[simp] theorem armBusy_ctl_ddram (s : State) (b : Time) : (s.armBusy b).ctl.ddram = s.ctl.ddram := rfl
@[simp] theorem armBusy_ctl_cgram (s : State) (b : Time) : (s.armBusy b).ctl.cgram = s.ctl.cgram := rfl
@[simp] theorem armBusy_ctl_ac (s : State) (b : Time) : (s.armBusy b).ctl.ac = s.ctl.ac := rfl
@[simp] theorem armBusy_ctl_bank (s : State) (b : Time) : (s.armBusy b).ctl.bank = s.ctl.bank := rfl
@[simp] theorem armBusy_ctl_ir (s : State) (b : Time) : (s.armBusy b).ctl.ir = s.ctl.ir := rfl
@[simp] theorem armBusy_ctl_dr (s : State) (b : Time) : (s.armBusy b).ctl.dr = s.ctl.dr := rfl
@[simp] theorem armBusy_ctl_dataLen (s : State) (b : Time) : (s.armBusy b).ctl.dataLen = s.ctl.dataLen := rfl
@[simp] theorem armBusy_ctl_numLines (s : State) (b : Time) : (s.armBusy b).ctl.numLines = s.ctl.numLines := rfl
@[simp] theorem armBusy_ctl_glyphH (s : State) (b : Time) : (s.armBusy b).ctl.glyphH = s.ctl.glyphH := rfl
@[simp] theorem armBusy_ctl_displayOn (s : State) (b : Time) : (s.armBusy b).ctl.displayOn = s.ctl.displayOn := rfl
@[simp] theorem armBusy_ctl_cursorOn (s : State) (b : Time) : (s.armBusy b).ctl.cursorOn = s.ctl.cursorOn := rfl
@[simp] theorem armBusy_ctl_blinkOn (s : State) (b : Time) : (s.armBusy b).ctl.blinkOn = s.ctl.blinkOn := rfl
@[simp] theorem armBusy_ctl_shiftOn (s : State) (b : Time) : (s.armBusy b).ctl.shiftOn = s.ctl.shiftOn := rfl
@[simp] theorem armBusy_ctl_direction (s : State) (b : Time) : (s.armBusy b).ctl.direction = s.ctl.direction := rfl
@[simp] theorem armBusy_ctl_dispShift (s : State) (b : Time) : (s.armBusy b).ctl.dispShift = s.ctl.dispShift := rfl
@[simp] theorem armBusy_ctl_firstCmd (s : State) (b : Time) : (s.armBusy b).ctl.firstCmd = s.ctl.firstCmd := rfl
@[simp] theorem armBusy_ctl_busy (s : State) (b : Time) : (s.armBusy b).ctl.busy = true := rfl
@[simp] theorem armBusy_ctl_busyDeadline (s : State) (b : Time) : (s.armBusy b).ctl.busyDeadline = some (Time.plus s.now (Time.scaled b s.cfg.timingFactor)) := rfl
@[simp] theorem armBusy_ctl_phase (s : State) (b : Time) : (s.armBusy b).ctl.phase = s.ctl.phase := rfl
@[simp] theorem armBusy_ctl_lastRs (s : State) (b : Time) : (s.armBusy b).ctl.lastRs = s.ctl.lastRs := rfl
@[simp] theorem armBusy_ctl_lastRw (s : State) (b : Time) : (s.armBusy b).ctl.lastRw = s.ctl.lastRw := rfl
@[simp] theorem armBusy_ctl_blinkPhase (s : State) (b : Time) : (s.armBusy b).ctl.blinkPhase = s.ctl.blinkPhase := rfl
@[simp] theorem armBusy_ctl_blinkDeadline (s : State) (b : Time) : (s.armBusy b).ctl.blinkDeadline = s.ctl.blinkDeadline := rfl
@[simp] theorem armBusy_ctl_rsIn (s : State) (b : Time) : (s.armBusy b).ctl.rsIn = s.ctl.rsIn := rfl
@[simp] theorem armBusy_ctl_rwIn (s : State) (b : Time) : (s.armBusy b).ctl.rwIn = s.ctl.rwIn := rfl
@[simp] theorem armBusy_ctl_dbIn (s : State) (b : Time) : (s.armBusy b).ctl.dbIn = s.ctl.dbIn := rfl
@[simp] theorem armBusy_ctl_eLevel (s : State) (b : Time) : (s.armBusy b).ctl.eLevel = s.ctl.eLevel := rfl
@[simp] theorem armBusy_ctl_dbOut (s : State) (b : Time) : (s.armBusy b).ctl.dbOut = s.ctl.dbOut := rfl

/-! ### `State.consumeFirst` -/

@[simp] theorem consumeFirst_cfg (s : State) : s.consumeFirst.cfg = s.cfg := rfl
@[simp] theorem consumeFirst_now (s : State) : s.consumeFirst.now = s.now := rfl
@[simp] theorem consumeFirst_inbox (s : State) : s.consumeFirst.inbox = s.inbox := rfl
@[simp] theorem consumeFirst_trace (s : State) : s.consumeFirst.trace = s.trace := rfl
@[simp] theorem consumeFirst_reply (s : State) : s.consumeFirst.reply = s.reply := rfl
@[simp] theorem consumeFirst_ctl_ddram (s : State) : s.consumeFirst.ctl.ddram = s.ctl.ddram := rfl
@[simp] theorem consumeFirst_ctl_cgram (s : State) : s.consumeFirst.ctl.cgram = s.ctl.cgram := rfl
@[simp] theorem consumeFirst_ctl_ac (s : State) : s.consumeFirst.ctl.ac = s.ctl.ac := rfl
@[simp] theorem consumeFirst_ctl_bank (s : State) : s.consumeFirst.ctl.bank = s.ctl.bank := rfl
@[simp] theorem consumeFirst_ctl_ir (s : State) : s.consumeFirst.ctl.ir = s.ctl.ir := rfl
@[simp] theorem consumeFirst_ctl_dr (s : State) : s.consumeFirst.ctl.dr = s.ctl.dr := rfl
@[simp] theorem consumeFirst_ctl_dataLen (s : State) : s.consumeFirst.ctl.dataLen = s.ctl.dataLen := rfl
@[simp] theorem consumeFirst_ctl_numLines (s : State) : s.consumeFirst.ctl.numLines = s.ctl.numLines := rfl
@[simp] theorem consumeFirst_ctl_glyphH (s : State) : s.consumeFirst.ctl.glyphH = s.ctl.glyphH := rfl
@[simp] theorem consumeFirst_ctl_displayOn (s : State) : s.consumeFirst.ctl.displayOn = s.ctl.displayOn := rfl
@[simp] theorem consumeFirst_ctl_cursorOn (s : State) : s.consumeFirst.ctl.cursorOn = s.ctl.cursorOn := rfl
@[simp] theorem consumeFirst_ctl_blinkOn (s : State) : s.consumeFirst.ctl.blinkOn = s.ctl.blinkOn := rfl
@[simp] theorem consumeFirst_ctl_shiftOn (s : State) : s.consumeFirst.ctl.shiftOn = s.ctl.shiftOn := rfl
@[simp] theorem consumeFirst_ctl_direction (s : State) : s.consumeFirst.ctl.direction = s.ctl.direction := rfl
@[simp] theorem consumeFirst_ctl_dispShift (s : State) : s.consumeFirst.ctl.dispShift = s.ctl.dispShift := rfl
@[simp] theorem consumeFirst_ctl_firstCmd (s : State) : s.consumeFirst.ctl.firstCmd = false := rfl
@[simp] theorem consumeFirst_ctl_busy (s : State) : s.consumeFirst.ctl.busy = s.ctl.busy := rfl
@[simp] theorem consumeFirst_ctl_busyDeadline (s : State) : s.consumeFirst.ctl.busyDeadline = s.ctl.busyDeadline := rfl
@[simp] theorem consumeFirst_ctl_phase (s : State) : s.consumeFirst.ctl.phase = s.ctl.phase := rfl
@[simp] theorem consumeFirst_ctl_lastRs (s : State) : s.consumeFirst.ctl.lastRs = s.ctl.lastRs := rfl
@[simp] theorem consumeFirst_ctl_lastRw (s : State) : s.consumeFirst.ctl.lastRw = s.ctl.lastRw := rfl
@[simp] theorem consumeFirst_ctl_blinkPhase (s : State) : s.consumeFirst.ctl.blinkPhase = s.ctl.blinkPhase := rfl
@[simp] theorem consumeFirst_ctl_blinkDeadline (s : State) : s.consumeFirst.ctl.blinkDeadline = s.ctl.blinkDeadline := rfl
@[simp] theorem consumeFirst_ctl_rsIn (s : State) : s.consumeFirst.ctl.rsIn = s.ctl.rsIn := rfl
@[simp] theorem consumeFirst_ctl_rwIn (s : State) : s.consumeFirst.ctl.rwIn = s.ctl.rwIn := rfl
@[simp] theorem consumeFirst_ctl_dbIn (s : State) : s.consumeFirst.ctl.dbIn = s.ctl.dbIn := rfl
@[simp] theorem consumeFirst_ctl_eLevel (s : State) : s.consumeFirst.ctl.eLevel = s.ctl.eLevel := rfl
@[simp] theorem consumeFirst_ctl_dbOut (s : State) : s.consumeFirst.ctl.dbOut = s.ctl.dbOut := rfl

/-! ### `State.inboxAfter` -/

@[simp] theorem inboxAfter_busy (s : State) (t : Time) : s.inboxAfter .busy t = s.inbox := rfl
@[simp] theorem inboxAfter_blink (s : State) (t : Time) :
    s.inboxAfter .blink t = match s.inbox with
      | [] => []
      | d :: rest => { d with blinkFirst := if Time.later s.now d.time = t then d.blinkFirst - 1 else d.blinkFirst } :: rest := by
  unfold State.inboxAfter; cases s.inbox <;> rfl

/-! ### `Controller.setAC` -/

@[simp] theorem setAC_ddram (c : Controller) (a : Int) : (c.setAC a).ddram = c.ddram := rfl
@[simp] theorem setAC_cgram (c : Controller) (a : Int) : (c.setAC a).cgram = c.cgram := rfl
@[simp] theorem setAC_ac (c : Controller) (a : Int) : (c.setAC a).ac = BitVec.ofInt 7 (correct c.bank c.numLines a) := rfl
@[simp] theorem setAC_bank (c : Controller) (a : Int) : (c.setAC a).bank = c.bank := rfl
@[simp] theorem setAC_ir (c : Controller) (a : Int) : (c.setAC a).ir = c.ir := rfl
@[simp] theorem setAC_dr (c : Controller) (a : Int) : (c.setAC a).dr = c.dr := rfl
@[simp] theorem setAC_dataLen (c : Controller) (a : Int) : (c.setAC a).dataLen = c.dataLen := rfl
@[simp] theorem setAC_numLines (c : Controller) (a : Int) : (c.setAC a).numLines = c.numLines := rfl
@[simp] theorem setAC_glyphH (c : Controller) (a : Int) : (c.setAC a).glyphH = c.glyphH := rfl
@[simp] theorem setAC_displayOn (c : Controller) (a : Int) : (c.setAC a).displayOn = c.displayOn := rfl
@[simp] theorem setAC_cursorOn (c : Controller) (a : Int) : (c.setAC a).cursorOn = c.cursorOn := rfl
@[simp] theorem setAC_blinkOn (c : Controller) (a : Int) : (c.setAC a).blinkOn = c.blinkOn := rfl
@[simp] theorem setAC_shiftOn (c : Controller) (a : Int) : (c.setAC a).shiftOn = c.shiftOn := rfl
@[simp] theorem setAC_direction (c : Controller) (a : Int) : (c.setAC a).direction = c.direction := rfl
@[simp] theorem setAC_dispShift (c : Controller) (a : Int) : (c.setAC a).dispShift = c.dispShift := rfl
@[simp] theorem setAC_firstCmd (c : Controller) (a : Int) : (c.setAC a).firstCmd = c.firstCmd := rfl
@[simp] theorem setAC_busy (c : Controller) (a : Int) : (c.setAC a).busy = c.busy := rfl
@[simp] theorem setAC_busyDeadline (c : Controller) (a : Int) : (c.setAC a).busyDeadline = c.busyDeadline := rfl
@[simp] theorem setAC_phase (c : Controller) (a : Int) : (c.setAC a).phase = c.phase := rfl
@[simp] theorem setAC_lastRs (c : Controller) (a : Int) : (c.setAC a).lastRs = c.lastRs := rfl
@[simp] theorem setAC_lastRw (c : Controller) (a : Int) : (c.setAC a).lastRw = c.lastRw := rfl
@[simp] theorem setAC_blinkPhase (c : Controller) (a : Int) : (c.setAC a).blinkPhase = c.blinkPhase := rfl
@[simp] theorem setAC_blinkDeadline (c : Controller) (a : Int) : (c.setAC a).blinkDeadline = c.blinkDeadline := rfl
@[simp] theorem setAC_rsIn (c : Controller) (a : Int) : (c.setAC a).rsIn = c.rsIn := rfl
@[simp] theorem setAC_rwIn (c : Controller) (a : Int) : (c.setAC a).rwIn = c.rwIn := rfl
@[simp] theorem setAC_dbIn (c : Controller) (a : Int) : (c.setAC a).dbIn = c.dbIn := rfl
@[simp] theorem setAC_eLevel (c : Controller) (a : Int) : (c.setAC a).eLevel = c.eLevel := rfl
@[simp] theorem setAC_dbOut (c : Controller) (a : Int) : (c.setAC a).dbOut = c.dbOut := rfl

/-! ### `Controller.updateAC` -/

@[simp] theorem updateAC_ddram (c : Controller) (d : Direction) : (c.updateAC d).ddram = c.ddram := rfl
@[simp] theorem updateAC_cgram (c : Controller) (d : Direction) : (c.updateAC d).cgram = c.cgram := rfl
@[simp] theorem updateAC_ac (c : Controller) (d : Direction) : (c.updateAC d).ac = BitVec.ofInt 7 (correct c.bank c.numLines (movedAddress c.bank c.numLines d c.ac)) := rfl
@[simp] theorem updateAC_bank (c : Controller) (d : Direction) : (c.updateAC d).bank = c.bank := rfl
@[simp] theorem updateAC_ir (c : Controller) (d : Direction) : (c.updateAC d).ir = c.ir := rfl
@[simp] theorem updateAC_dr (c : Controller) (d : Direction) : (c.updateAC d).dr = c.dr := rfl
@[simp] theorem updateAC_dataLen (c : Controller) (d : Direction) : (c.updateAC d).dataLen = c.dataLen := rfl
@[simp] theorem updateAC_numLines (c : Controller) (d : Direction) : (c.updateAC d).numLines = c.numLines := rfl
@[simp] theorem updateAC_glyphH (c : Controller) (d : Direction) : (c.updateAC d).glyphH = c.glyphH := rfl
@[simp] theorem updateAC_displayOn (c : Controller) (d : Direction) : (c.updateAC d).displayOn = c.displayOn := rfl
@[simp] theorem updateAC_cursorOn (c : Controller) (d : Direction) : (c.updateAC d).cursorOn = c.cursorOn := rfl
@[simp] theorem updateAC_blinkOn (c : Controller) (d : Direction) : (c.updateAC d).blinkOn = c.blinkOn := rfl
@[simp] theorem updateAC_shiftOn (c : Controller) (d : Direction) : (c.updateAC d).shiftOn = c.shiftOn := rfl
@[simp] theorem updateAC_direction (c : Controller) (d : Direction) : (c.updateAC d).direction = c.direction := rfl
@[simp] theorem updateAC_dispShift (c : Controller) (d : Direction) : (c.updateAC d).dispShift = c.dispShift := rfl
@[simp] theorem updateAC_firstCmd (c : Controller) (d : Direction) : (c.updateAC d).firstCmd = c.firstCmd := rfl
@[simp] theorem updateAC_busy (c : Controller) (d : Direction) : (c.updateAC d).busy = c.busy := rfl
@[simp] theorem updateAC_busyDeadline (c : Controller) (d : Direction) : (c.updateAC d).busyDeadline = c.busyDeadline := rfl
@[simp] theorem updateAC_phase (c : Controller) (d : Direction) : (c.updateAC d).phase = c.phase := rfl
@[simp] theorem updateAC_lastRs (c : Controller) (d : Direction) : (c.updateAC d).lastRs = c.lastRs := rfl
@[simp] theorem updateAC_lastRw (c : Controller) (d : Direction) : (c.updateAC d).lastRw = c.lastRw := rfl
@[simp] theorem updateAC_blinkPhase (c : Controller) (d : Direction) : (c.updateAC d).blinkPhase = c.blinkPhase := rfl
@[simp] theorem updateAC_blinkDeadline (c : Controller) (d : Direction) : (c.updateAC d).blinkDeadline = c.blinkDeadline := rfl
@[simp] theorem updateAC_rsIn (c : Controller) (d : Direction) : (c.updateAC d).rsIn = c.rsIn := rfl
@[simp] theorem updateAC_rwIn (c : Controller) (d : Direction) : (c.updateAC d).rwIn = c.rwIn := rfl
@[simp] theorem updateAC_dbIn (c : Controller) (d : Direction) : (c.updateAC d).dbIn = c.dbIn := rfl
@[simp] theorem updateAC_eLevel (c : Controller) (d : Direction) : (c.updateAC d).eLevel = c.eLevel := rfl
@[simp] theorem updateAC_dbOut (c : Controller) (d : Direction) : (c.updateAC d).dbOut = c.dbOut := rfl

/-! ### `Controller.shiftDisplay` -/

@[simp] theorem shiftDisplay_ddram (c : Controller) (n : Nat) (d : Direction) : (c.shiftDisplay n d).ddram = c.ddram := rfl
@[simp] theorem shiftDisplay_cgram (c : Controller) (n : Nat) (d : Direction) : (c.shiftDisplay n d).cgram = c.cgram := rfl
@[simp] theorem shiftDisplay_ac (c : Controller) (n : Nat) (d : Direction) : (c.shiftDisplay n d).ac = c.ac := rfl
@[simp] theorem shiftDisplay_bank (c : Controller) (n : Nat) (d : Direction) : (c.shiftDisplay n d).bank = c.bank := rfl
@[simp] theorem shiftDisplay_ir (c : Controller) (n : Nat) (d : Direction) : (c.shiftDisplay n d).ir = c.ir := rfl
@[simp] theorem shiftDisplay_dr (c : Controller) (n : Nat) (d : Direction) : (c.shiftDisplay n d).dr = c.dr := rfl
@[simp] theorem shiftDisplay_dataLen (c : Controller) (n : Nat) (d : Direction) : (c.shiftDisplay n d).dataLen = c.dataLen := rfl
@[simp] theorem shiftDisplay_numLines (c : Controller) (n : Nat) (d : Direction) : (c.shiftDisplay n d).numLines = c.numLines := rfl
@[simp] theorem shiftDisplay_glyphH (c : Controller) (n : Nat) (d : Direction) : (c.shiftDisplay n d).glyphH = c.glyphH := rfl
@[simp] theorem shiftDisplay_displayOn (c : Controller) (n : Nat) (d : Direction) : (c.shiftDisplay n d).displayOn = c.displayOn := rfl
@[simp] theorem shiftDisplay_cursorOn (c : Controller) (n : Nat) (d : Direction) : (c.shiftDisplay n d).cursorOn = c.cursorOn := rfl
@[simp] theorem shiftDisplay_blinkOn (c : Controller) (n : Nat) (d : Direction) : (c.shiftDisplay n d).blinkOn = c.blinkOn := rfl
@[simp] theorem shiftDisplay_shiftOn (c : Controller) (n : Nat) (d : Direction) : (c.shiftDisplay n d).shiftOn = c.shiftOn := rfl
@[simp] theorem shiftDisplay_direction (c : Controller) (n : Nat) (d : Direction) : (c.shiftDisplay n d).direction = c.direction := rfl
@[simp] theorem shiftDisplay_dispShift (c : Controller) (n : Nat) (d : Direction) : (c.shiftDisplay n d).dispShift = (((c.dispShift : Int) + d.toInt) % (n : Int)).toNat := rfl
@[simp] theorem shiftDisplay_firstCmd (c : Controller) (n : Nat) (d : Direction) : (c.shiftDisplay n d).firstCmd = c.firstCmd := rfl
@[simp] theorem shiftDisplay_busy (c : Controller) (n : Nat) (d : Direction) : (c.shiftDisplay n d).busy = c.busy := rfl
@[simp] theorem shiftDisplay_busyDeadline (c : Controller) (n : Nat) (d : Direction) : (c.shiftDisplay n d).busyDeadline = c.busyDeadline := rfl
@[simp] theorem shiftDisplay_phase (c : Controller) (n : Nat) (d : Direction) : (c.shiftDisplay n d).phase = c.phase := rfl
@[simp] theorem shiftDisplay_lastRs (c : Controller) (n : Nat) (d : Direction) : (c.shiftDisplay n d).lastRs = c.lastRs := rfl
@[simp] theorem shiftDisplay_lastRw (c : Controller) (n : Nat) (d : Direction) : (c.shiftDisplay n d).lastRw = c.lastRw := rfl
@[simp] theorem shiftDisplay_blinkPhase (c : Controller) (n : Nat) (d : Direction) : (c.shiftDisplay n d).blinkPhase = c.blinkPhase := rfl
@[simp] theorem shiftDisplay_blinkDeadline (c : Controller) (n : Nat) (d : Direction) : (c.shiftDisplay n d).blinkDeadline = c.blinkDeadline := rfl
@[simp] theorem shiftDisplay_rsIn (c : Controller) (n : Nat) (d : Direction) : (c.shiftDisplay n d).rsIn = c.rsIn := rfl
@[simp] theorem shiftDisplay_rwIn (c : Controller) (n : Nat) (d : Direction) : (c.shiftDisplay n d).rwIn = c.rwIn := rfl
@[simp] theorem shiftDisplay_dbIn (c : Controller) (n : Nat) (d : Direction) : (c.shiftDisplay n d).dbIn = c.dbIn := rfl
@[simp] theorem shiftDisplay_eLevel (c : Controller) (n : Nat) (d : Direction) : (c.shiftDisplay n d).eLevel = c.eLevel := rfl
@[simp] theorem shiftDisplay_dbOut (c : Controller) (n : Nat) (d : Direction) : (c.shiftDisplay n d).dbOut = c.dbOut := rfl

/-! ### `Controller.levelCheck` -/

@[simp] theorem levelCheck_ddram (c : Controller) (rs rw : Bool) : (c.levelCheck rs rw).ddram = c.ddram := rfl
@[simp] theorem levelCheck_cgram (c : Controller) (rs rw : Bool) : (c.levelCheck rs rw).cgram = c.cgram := rfl
@[simp] theorem levelCheck_ac (c : Controller) (rs rw : Bool) : (c.levelCheck rs rw).ac = c.ac := rfl
@[simp] theorem levelCheck_bank (c : Controller) (rs rw : Bool) : (c.levelCheck rs rw).bank = c.bank := rfl
@[simp] theorem levelCheck_ir (c : Controller) (rs rw : Bool) : (c.levelCheck rs rw).ir = c.ir := rfl
@[simp] theorem levelCheck_dr (c : Controller) (rs rw : Bool) : (c.levelCheck rs rw).dr = c.dr := rfl
@[simp] theorem levelCheck_dataLen (c : Controller) (rs rw : Bool) : (c.levelCheck rs rw).dataLen = c.dataLen := rfl
@[simp] theorem levelCheck_numLines (c : Controller) (rs rw : Bool) : (c.levelCheck rs rw).numLines = c.numLines := rfl
@[simp] theorem levelCheck_glyphH (c : Controller) (rs rw : Bool) : (c.levelCheck rs rw).glyphH = c.glyphH := rfl
@[simp] theorem levelCheck_displayOn (c : Controller) (rs rw : Bool) : (c.levelCheck rs rw).displayOn = c.displayOn := rfl
@[simp] theorem levelCheck_cursorOn (c : Controller) (rs rw : Bool) : (c.levelCheck rs rw).cursorOn = c.cursorOn := rfl
@[simp] theorem levelCheck_blinkOn (c : Controller) (rs rw : Bool) : (c.levelCheck rs rw).blinkOn = c.blinkOn := rfl
@[simp] theorem levelCheck_shiftOn (c : Controller) (rs rw : Bool) : (c.levelCheck rs rw).shiftOn = c.shiftOn := rfl
@[simp] theorem levelCheck_direction (c : Controller) (rs rw : Bool) : (c.levelCheck rs rw).direction = c.direction := rfl
@[simp] theorem levelCheck_dispShift (c : Controller) (rs rw : Bool) : (c.levelCheck rs rw).dispShift = c.dispShift := rfl
@[simp] theorem levelCheck_firstCmd (c : Controller) (rs rw : Bool) : (c.levelCheck rs rw).firstCmd = c.firstCmd := rfl
@[simp] theorem levelCheck_busy (c : Controller) (rs rw : Bool) : (c.levelCheck rs rw).busy = c.busy := rfl
@[simp] theorem levelCheck_busyDeadline (c : Controller) (rs rw : Bool) : (c.levelCheck rs rw).busyDeadline = c.busyDeadline := rfl
@[simp] theorem levelCheck_phase (c : Controller) (rs rw : Bool) : (c.levelCheck rs rw).phase = if c.dataLen = .four ∧ (rs ≠ c.lastRs ∨ rw ≠ c.lastRw) then .high else c.phase := rfl
@[simp] theorem levelCheck_lastRs (c : Controller) (rs rw : Bool) : (c.levelCheck rs rw).lastRs = rs := rfl
@[simp] theorem levelCheck_lastRw (c : Controller) (rs rw : Bool) : (c.levelCheck rs rw).lastRw = rw := rfl
@[simp] theorem levelCheck_blinkPhase (c : Controller) (rs rw : Bool) : (c.levelCheck rs rw).blinkPhase = c.blinkPhase := rfl
@[simp] theorem levelCheck_blinkDeadline (c : Controller) (rs rw : Bool) : (c.levelCheck rs rw).blinkDeadline = c.blinkDeadline := rfl
@[simp] theorem levelCheck_rsIn (c : Controller) (rs rw : Bool) : (c.levelCheck rs rw).rsIn = c.rsIn := rfl
@[simp] theorem levelCheck_rwIn (c : Controller) (rs rw : Bool) : (c.levelCheck rs rw).rwIn = c.rwIn := rfl
@[simp] theorem levelCheck_dbIn (c : Controller) (rs rw : Bool) : (c.levelCheck rs rw).dbIn = c.dbIn := rfl
@[simp] theorem levelCheck_eLevel (c : Controller) (rs rw : Bool) : (c.levelCheck rs rw).eLevel = c.eLevel := rfl
@[simp] theorem levelCheck_dbOut (c : Controller) (rs rw : Bool) : (c.levelCheck rs rw).dbOut = c.dbOut := rfl

/-! ### `Controller.home` -/

@[simp] theorem home_ddram (c : Controller) : (c.home).ddram = c.ddram := rfl
@[simp] theorem home_cgram (c : Controller) : (c.home).cgram = c.cgram := rfl
@[simp] theorem home_ac (c : Controller) : (c.home).ac = 0 := rfl
@[simp] theorem home_bank (c : Controller) : (c.home).bank = .ddram := rfl
@[simp] theorem home_ir (c : Controller) : (c.home).ir = c.ir := rfl
@[simp] theorem home_dr (c : Controller) : (c.home).dr = c.dr := rfl
@[simp] theorem home_dataLen (c : Controller) : (c.home).dataLen = c.dataLen := rfl
@[simp] theorem home_numLines (c : Controller) : (c.home).numLines = c.numLines := rfl
@[simp] theorem home_glyphH (c : Controller) : (c.home).glyphH = c.glyphH := rfl
@[simp] theorem home_displayOn (c : Controller) : (c.home).displayOn = c.displayOn := rfl
@[simp] theorem home_cursorOn (c : Controller) : (c.home).cursorOn = c.cursorOn := rfl
@[simp] theorem home_blinkOn (c : Controller) : (c.home).blinkOn = c.blinkOn := rfl
@[simp] theorem home_shiftOn (c : Controller) : (c.home).shiftOn = c.shiftOn := rfl
@[simp] theorem home_direction (c : Controller) : (c.home).direction = .inc := rfl
@[simp] theorem home_dispShift (c : Controller) : (c.home).dispShift = 0 := rfl
@[simp] theorem home_firstCmd (c : Controller) : (c.home).firstCmd = c.firstCmd := rfl
@[simp] theorem home_busy (c : Controller) : (c.home).busy = c.busy := rfl
@[simp] theorem home_busyDeadline (c : Controller) : (c.home).busyDeadline = c.busyDeadline := rfl
@[simp] theorem home_phase (c : Controller) : (c.home).phase = c.phase := rfl
@[simp] theorem home_lastRs (c : Controller) : (c.home).lastRs = c.lastRs := rfl
@[simp] theorem home_lastRw (c : Controller) : (c.home).lastRw = c.lastRw := rfl
@[simp] theorem home_blinkPhase (c : Controller) : (c.home).blinkPhase = c.blinkPhase := rfl
@[simp] theorem home_blinkDeadline (c : Controller) : (c.home).blinkDeadline = c.blinkDeadline := rfl
@[simp] theorem home_rsIn (c : Controller) : (c.home).rsIn = c.rsIn := rfl
@[simp] theorem home_rwIn (c : Controller) : (c.home).rwIn = c.rwIn := rfl
@[simp] theorem home_dbIn (c : Controller) : (c.home).dbIn = c.dbIn := rfl
@[simp] theorem home_eLevel (c : Controller) : (c.home).eLevel = c.eLevel := rfl
@[simp] theorem home_dbOut (c : Controller) : (c.home).dbOut = c.dbOut := rfl

/-! ### `Controller.memWrite` -/

@[simp] theorem memWrite_ddram_ddram (c : Controller) (a : Nat) (v : Byte) : (c.memWrite .ddram a v).ddram = Memory.write Bank.ddram.fill c.ddram a v := rfl
@[simp] theorem memWrite_cgram_ddram (c : Controller) (a : Nat) (v : Byte) : (c.memWrite .cgram a v).ddram = c.ddram := rfl
@[simp] theorem memWrite_cgram_cgram (c : Controller) (a : Nat) (v : Byte) : (c.memWrite .cgram a v).cgram = Memory.write Bank.cgram.fill c.cgram a v := rfl
@[simp] theorem memWrite_ddram_cgram (c : Controller) (a : Nat) (v : Byte) : (c.memWrite .ddram a v).cgram = c.cgram := rfl
@[simp] theorem memWrite_ac (c : Controller) (b : Bank) (a : Nat) (v : Byte) : (c.memWrite b a v).ac = c.ac := by cases b <;> rfl
@[simp] theorem memWrite_bank (c : Controller) (b : Bank) (a : Nat) (v : Byte) : (c.memWrite b a v).bank = c.bank := by cases b <;> rfl
@[simp] theorem memWrite_ir (c : Controller) (b : Bank) (a : Nat) (v : Byte) : (c.memWrite b a v).ir = c.ir := by cases b <;> rfl
@[simp] theorem memWrite_dr (c : Controller) (b : Bank) (a : Nat) (v : Byte) : (c.memWrite b a v).dr = c.dr := by cases b <;> rfl
@[simp] theorem memWrite_dataLen (c : Controller) (b : Bank) (a : Nat) (v : Byte) : (c.memWrite b a v).dataLen = c.dataLen := by cases b <;> rfl
@[simp] theorem memWrite_numLines (c : Controller) (b : Bank) (a : Nat) (v : Byte) : (c.memWrite b a v).numLines = c.numLines := by cases b <;> rfl
@[simp] theorem memWrite_glyphH (c : Controller) (b : Bank) (a : Nat) (v : Byte) : (c.memWrite b a v).glyphH = c.glyphH := by cases b <;> rfl
@[simp] theorem memWrite_displayOn (c : Controller) (b : Bank) (a : Nat) (v : Byte) : (c.memWrite b a v).displayOn = c.displayOn := by cases b <;> rfl
@[simp] theorem memWrite_cursorOn (c : Controller) (b : Bank) (a : Nat) (v : Byte) : (c.memWrite b a v).cursorOn = c.cursorOn := by cases b <;> rfl
@[simp] theorem memWrite_blinkOn (c : Controller) (b : Bank) (a : Nat) (v : Byte) : (c.memWrite b a v).blinkOn = c.blinkOn := by cases b <;> rfl
@[simp] theorem memWrite_shiftOn (c : Controller) (b : Bank) (a : Nat) (v : Byte) : (c.memWrite b a v).shiftOn = c.shiftOn := by cases b <;> rfl
@[simp] theorem memWrite_direction (c : Controller) (b : Bank) (a : Nat) (v : Byte) : (c.memWrite b a v).direction = c.direction := by cases b <;> rfl
@[simp] theorem memWrite_dispShift (c : Controller) (b : Bank) (a : Nat) (v : Byte) : (c.memWrite b a v).dispShift = c.dispShift := by cases b <;> rfl
@[simp] theorem memWrite_firstCmd (c : Controller) (b : Bank) (a : Nat) (v : Byte) : (c.memWrite b a v).firstCmd = c.firstCmd := by cases b <;> rfl
@[simp] theorem memWrite_busy (c : Controller) (b : Bank) (a : Nat) (v : Byte) : (c.memWrite b a v).busy = c.busy := by cases b <;> rfl
@[simp] theorem memWrite_busyDeadline (c : Controller) (b : Bank) (a : Nat) (v : Byte) : (c.memWrite b a v).busyDeadline = c.busyDeadline := by cases b <;> rfl
@[simp] theorem memWrite_phase (c : Controller) (b : Bank) (a : Nat) (v : Byte) : (c.memWrite b a v).phase = c.phase := by cases b <;> rfl
@[simp] theorem memWrite_lastRs (c : Controller) (b : Bank) (a : Nat) (v : Byte) : (c.memWrite b a v).lastRs = c.lastRs := by cases b <;> rfl
@[simp] theorem memWrite_lastRw (c : Controller) (b : Bank) (a : Nat) (v : Byte) : (c.memWrite b a v).lastRw = c.lastRw := by cases b <;> rfl
@[simp] theorem memWrite_blinkPhase (c : Controller) (b : Bank) (a : Nat) (v : Byte) : (c.memWrite b a v).blinkPhase = c.blinkPhase := by cases b <;> rfl
@[simp] theorem memWrite_blinkDeadline (c : Controller) (b : Bank) (a : Nat) (v : Byte) : (c.memWrite b a v).blinkDeadline = c.blinkDeadline := by cases b <;> rfl
@[simp] theorem memWrite_rsIn (c : Controller) (b : Bank) (a : Nat) (v : Byte) : (c.memWrite b a v).rsIn = c.rsIn := by cases b <;> rfl
@[simp] theorem memWrite_rwIn (c : Controller) (b : Bank) (a : Nat) (v : Byte) : (c.memWrite b a v).rwIn = c.rwIn := by cases b <;> rfl
@[simp] theorem memWrite_dbIn (c : Controller) (b : Bank) (a : Nat) (v : Byte) : (c.memWrite b a v).dbIn = c.dbIn := by cases b <;> rfl
@[simp] theorem memWrite_eLevel (c : Controller) (b : Bank) (a : Nat) (v : Byte) : (c.memWrite b a v).eLevel = c.eLevel := by cases b <;> rfl
@[simp] theorem memWrite_dbOut (c : Controller) (b : Bank) (a : Nat) (v : Byte) : (c.memWrite b a v).dbOut = c.dbOut := by cases b <;> rfl

end Sys2Proof.Machine
end

