-- ==== Sys2Proof/Laws/Memory.lean ====
section
/-! SUPPORT. The laws of the RAM banks: a read after a write, and the canonical form. -/

namespace Sys2Proof.Machine

@[simp] theorem Memory.read_nil (fill : Byte) (a : Nat) : Memory.read fill [] a = fill := rfl

/-- Below the listed addresses every cell reads as the fill value. -/
theorem Memory.read_below {fill : Byte} {size lo a : Nat} {m : Memory} (h : Memory.wfFrom fill size lo m = true)
    (ha : a < lo) : Memory.read fill m a = fill := by
  induction m generalizing lo with
  | nil => rfl
  | cons e m ih =>
    obtain ⟨b, w⟩ := e
    simp only [Memory.wfFrom, Bool.and_eq_true, decide_eq_true_eq] at h
    rw [Memory.read, if_neg (by omega)]
    exact ih h.2 (by omega)

theorem Memory.wfFrom_weaken {fill : Byte} {size lo lo' : Nat} {m : Memory}
    (h : Memory.wfFrom fill size lo m = true) (hl : lo' ≤ lo) : Memory.wfFrom fill size lo' m = true := by
  cases m with
  | nil => rfl
  | cons e m =>
    obtain ⟨b, w⟩ := e
    simp only [Memory.wfFrom, Bool.and_eq_true, decide_eq_true_eq] at h ⊢
    exact ⟨⟨⟨by omega, h.1.1.2⟩, h.1.2⟩, h.2⟩

theorem Memory.cons_wfFrom {fill : Byte} {size lo a : Nat} {v : Byte} {m : Memory}
    (h : Memory.wfFrom fill size (a + 1) m = true) (hl : lo ≤ a) (ha : a < size) :
    Memory.wfFrom fill size lo (Memory.cons fill a v m) = true := by
  unfold Memory.cons
  split
  · exact Memory.wfFrom_weaken h (by omega)
  · rename_i hv
    simp [Memory.wfFrom, hl, ha, hv, h]

/-- Writing an address inside the bank keeps the canonical form. -/
theorem Memory.write_wfFrom {fill : Byte} {size lo a : Nat} {v : Byte} {m : Memory}
    (h : Memory.wfFrom fill size lo m = true) (hl : lo ≤ a) (ha : a < size) :
    Memory.wfFrom fill size lo (Memory.write fill m a v) = true := by
  induction m generalizing lo with
  | nil => exact Memory.cons_wfFrom rfl hl ha
  | cons e m ih =>
    obtain ⟨b, w⟩ := e
    have hd := h
    simp only [Memory.wfFrom, Bool.and_eq_true, decide_eq_true_eq] at hd
    obtain ⟨⟨⟨h1, h2⟩, h3⟩, h4⟩ := hd
    rw [Memory.write]
    split
    · refine Memory.cons_wfFrom ?_ hl ha
      simp only [Memory.wfFrom, Bool.and_eq_true, decide_eq_true_eq]
      exact ⟨⟨⟨by omega, h2⟩, h3⟩, h4⟩
    · split
      · rename_i hab; subst hab; exact Memory.cons_wfFrom h4 hl ha
      · simp only [Memory.wfFrom, Bool.and_eq_true, decide_eq_true_eq]
        exact ⟨⟨⟨h1, h2⟩, h3⟩, ih h4 (by omega)⟩

theorem Memory.read_cons {fill : Byte} {size a x : Nat} {v : Byte} {m : Memory}
    (h : Memory.wfFrom fill size (a + 1) m = true) :
    Memory.read fill (Memory.cons fill a v m) x = if x = a then v else Memory.read fill m x := by
  unfold Memory.cons
  split
  · rename_i hv
    split
    · rename_i hx; subst hx; rw [hv, Memory.read_below h (by omega)]
    · rfl
  · rfl

/-- A read after a write: the written cell holds the value, and every other cell is as before. -/
theorem Memory.read_write {fill : Byte} {size lo a x : Nat} {v : Byte} {m : Memory}
    (h : Memory.wfFrom fill size lo m = true) :
    Memory.read fill (Memory.write fill m a v) x = if x = a then v else Memory.read fill m x := by
  induction m generalizing lo with
  | nil => exact Memory.read_cons (size := size) (m := []) rfl
  | cons e m ih =>
    obtain ⟨b, w⟩ := e
    have hd := h
    simp only [Memory.wfFrom, Bool.and_eq_true, decide_eq_true_eq] at hd
    obtain ⟨⟨⟨h1, h2⟩, h3⟩, h4⟩ := hd
    rw [Memory.write]
    split
    · refine Memory.read_cons (size := size) ?_
      simp only [Memory.wfFrom, Bool.and_eq_true, decide_eq_true_eq]
      exact ⟨⟨⟨by omega, h2⟩, h3⟩, h4⟩
    · split
      · rename_i hab
        subst hab
        rw [Memory.read_cons h4]
        by_cases hx : x = a <;> simp [Memory.read, hx]
      · rename_i hne
        simp only [Memory.read, ih h4]
        by_cases hx : x = b
        · subst hx; simp [Ne.symm hne]
        · simp [hx]

theorem Controller.wf_memWrite {cfg : Config} {c : Controller} {b : Bank} {a : Nat} {v : Byte}
    (hd : Memory.wf cfg .ddram c.ddram = true) (hc : Memory.wf cfg .cgram c.cgram = true) (ha : a < b.size cfg) :
    Memory.wf cfg .ddram (c.memWrite b a v).ddram = true ∧ Memory.wf cfg .cgram (c.memWrite b a v).cgram = true := by
  cases b
  · exact ⟨Memory.write_wfFrom hd (Nat.zero_le a) ha, hc⟩
  · exact ⟨hd, Memory.write_wfFrom hc (Nat.zero_le a) ha⟩

/-- `MemRead` looks at the two RAMs alone. -/
theorem Controller.memRead_congr {c c' : Controller} (hd : c.ddram = c'.ddram) (hc : c.cgram = c'.cgram) (b : Bank)
    (a : Nat) : c.memRead b a = c'.memRead b a := by
  cases b <;> simp [Controller.memRead, Controller.ram, hd, hc]

/-- `MemRead` after `MemWrite` (rule R39). -/
theorem Controller.memRead_memWrite {cfg : Config} {c : Controller} {b b' : Bank} {a x : Nat} {v : Byte}
    (hd : Memory.wf cfg .ddram c.ddram = true) (hc : Memory.wf cfg .cgram c.cgram = true) :
    (c.memWrite b a v).memRead b' x = if b' = b ∧ x = a then v else c.memRead b' x := by
  cases b <;> cases b' <;> simp only [Controller.memRead, Controller.ram, Controller.memWrite, reduceCtorEq,
    false_and, true_and, if_false]
  · exact Memory.read_write hd
  · exact Memory.read_write hc

/-- After reset both RAMs are in canonical form: nothing is listed. -/
theorem State.reset_wf :
    Memory.wf State.reset.cfg .ddram State.reset.ctl.ddram = true ∧
      Memory.wf State.reset.cfg .cgram State.reset.ctl.cgram = true :=
  ⟨rfl, rfl⟩

end Sys2Proof.Machine
end

