-- ==== Sys2Proof/Laws/Time.lean ====
section
/-! SUPPORT. The model's time arithmetic is the library's. -/

namespace Sys2Proof

theorem Time.plus_eq (a b : Time) : Time.plus a b = a + b := by
  rw [Time.plus, Rat.add_def, Rat.normalize_eq_mkRat]

theorem Time.scaled_eq (a f : Time) : Time.scaled a f = a * f := by
  rw [Time.scaled, Rat.mul_def, Rat.normalize_eq_mkRat]

theorem Time.before_iff (a b : Time) : Time.before a b = true ↔ a < b := by
  simp [Time.before, Rat.lt_iff]

theorem Time.before_false_iff (a b : Time) : Time.before a b = false ↔ b ≤ a := by
  rw [← not_lt, ← Time.before_iff, Bool.not_eq_true]

theorem Time.later_eq (a b : Time) : Time.later a b = max a b := by
  unfold Time.later
  split
  · rename_i h; exact (max_eq_right (le_of_lt ((Time.before_iff a b).1 h))).symm
  · rename_i h; exact (max_eq_left (by simpa [Time.before_iff] using h)).symm

end Sys2Proof
end

