-- ==== Sys2Proof/Laws/Address.lean ====
section
/-! SUPPORT. What the address operations leave: AC in the range of rule R17, and the display shift on its ring. -/

namespace Sys2Proof.Machine

/-- A corrected address is valid, whatever integer was corrected (rules R17, R41 to R43). -/
theorem correct_valid (b : Bank) (n : LineCount) (a : Int) : addressValid b n (BitVec.ofInt 7 (correct b n a)) = true := by
  cases b <;> cases n <;>
    simp only [addressValid, correct, correctOneLine, correctTwoLines, correctCgram, BitVec.toNat_ofInt,
      Bool.or_eq_true, Bool.and_eq_true, decide_eq_true_eq]
  · split_ifs <;> omega
  · split_ifs <;> omega
  · omega
  · omega

theorem Controller.setAC_acValid (c : Controller) (a : Int) : (c.setAC a).acValid = true :=
  correct_valid c.bank c.numLines a

theorem Controller.updateAC_acValid (c : Controller) (d : Direction) : (c.updateAC d).acValid = true :=
  c.setAC_acValid _

theorem Controller.shiftDisplay_lt (c : Controller) {n : Nat} (hn : 0 < n) (d : Direction) :
    (c.shiftDisplay n d).dispShift < n := by
  have h1 := Int.emod_nonneg ((c.dispShift : Int) + d.toInt) (b := (n : Int)) (by omega)
  have h2 := Int.emod_lt_of_pos ((c.dispShift : Int) + d.toInt) (b := (n : Int)) (by omega)
  simp only [shiftDisplay_dispShift]
  omega

/-- A valid address names a cell of its bank (rule R47). -/
theorem lt_size_of_valid {cfg : Config} {b : Bank} {n : LineCount} {a : BitVec 7} (hc : cfg.ramsSuffice = true)
    (h : addressValid b n a = true) : a.toNat < b.size cfg := by
  simp only [Config.ramsSuffice, Bool.and_eq_true, decide_eq_true_eq] at hc
  cases b <;> cases n <;> simp only [addressValid, Bool.or_eq_true, Bool.and_eq_true, decide_eq_true_eq] at h <;>
    simp only [Bank.size] <;> omega

theorem Controller.cellExists_of_acValid {cfg : Config} {c : Controller} (hc : cfg.ramsSuffice = true)
    (h : c.acValid = true) : c.cellExists cfg = true :=
  decide_eq_true (lt_size_of_valid hc h)

/-- `DR <- v; DataWrite()` writes five elements (rule R92). -/
theorem Controller.storeData_eq (c : Controller) (n : Nat) (v : Byte) :
    c.storeData n v =
      { c with
        ddram := (c.memWrite c.bank c.ac.toNat v).ddram
        cgram := (c.memWrite c.bank c.ac.toNat v).cgram
        dr := v
        ac := (c.updateAC c.direction).ac
        dispShift := if c.shiftOn then (c.shiftDisplay n c.direction).dispShift else c.dispShift } := by
  unfold Controller.storeData Controller.shiftOnWrite
  cases hb : c.bank <;> simp only [memWrite_shiftOn, memWrite_direction, updateAC_shiftOn, updateAC_direction] <;>
    split <;> simp_all [Controller.ext_iff]

end Sys2Proof.Machine
end

