-- ==== Sys2Proof/Laws/Exec.lean ====
section
/-! SUPPORT. Everything that running an operation, a transaction, a host event and a step can come to, said once as
an elimination principle each; the later proofs split on these and do not unfold the machine. -/

namespace Sys2Proof.Machine

/-- The next states of `exec`, operation by operation. -/
theorem exec_next_elim {s : State} {motive : Instr → State → Prop}
    (null : motive .null s.consumeFirst)
    (clear : motive .clearDisplay ((s.onCtl fun c => { c.home with ddram := [] }).armBusy s.cfg.tLong))
    (home : motive .returnHome ((s.onCtl Controller.home).armBusy s.cfg.tLong).consumeFirst)
    (entry : ∀ id sh, motive (.entryModeSet id sh)
      ((s.onCtl fun c => { c with direction := Direction.ofBit id, shiftOn := sh }).armBusy s.cfg.tShort).consumeFirst)
    (display : ∀ d c b, motive (.displayControl d c b)
      ((s.onCtl fun k => { k with displayOn := d, cursorOn := c, blinkOn := b }).armBusy s.cfg.tShort).consumeFirst)
    (shift : ∀ rl, motive (.cursorDisplayShift true rl)
      ((s.onCtl fun c => c.shiftDisplay s.cfg.displayRing (Direction.ofBit rl)).armBusy s.cfg.tShort).consumeFirst)
    (move : ∀ rl, motive (.cursorDisplayShift false rl)
      ((s.onCtl fun c => c.updateAC (Direction.ofBit rl)).armBusy s.cfg.tShort).consumeFirst)
    (rejected : ∀ dl n f, s.ctl.functionSetRejected dl n f = true →
      motive (.functionSet dl n f) (s.raiseDiag .functionSetRejected s.ctl.ir.toNat))
    (accepted : ∀ dl n f, s.ctl.functionSetRejected dl n f = false →
      motive (.functionSet dl n f) ((s.onCtl fun c => c.setFunction dl n f).armBusy s.cfg.tShort).consumeFirst)
    (cgaddr : ∀ a, motive (.setCgramAddr a)
      ((s.onCtl fun c => { c with bank := .cgram, ac := a.zeroExtend 7 }).armBusy s.cfg.tShort).consumeFirst)
    (ddaddr : ∀ a, motive (.setDdramAddr a)
      ((s.onCtl fun c => Controller.setAC { c with bank := .ddram } a.toNat).armBusy s.cfg.tShort).consumeFirst)
    (status8 : s.ctl.dataLen = .eight → motive .statusRead (s.answer (.byte s.ctl.status)))
    (statusHigh : s.ctl.dataLen = .four → s.ctl.phase = .high →
      motive .statusRead ((s.onCtl fun c => { c with phase := .low }).answer (.byte s.ctl.statusHigh)))
    (statusLow : s.ctl.dataLen = .four → s.ctl.phase = .low →
      motive .statusRead ((s.onCtl fun c => { c with phase := .high }).answer (.byte s.ctl.statusLow)))
    (dropWrite : ∀ v, s.ctl.busy = true → motive (.dataWrite v) (s.dropWrite v))
    (write : ∀ v, s.ctl.busy = false → s.ctl.cellExists s.cfg = true →
      motive (.dataWrite v) ((s.onCtl fun c => c.storeData s.cfg.displayRing v).armBusy s.cfg.tMedium))
    (dropRead : s.ctl.busy = true → motive .dataRead s.dropRead)
    (read : s.ctl.busy = false → s.ctl.cellExists s.cfg = true →
      motive .dataRead (s.loadData (s.ctl.memRead s.ctl.bank s.ctl.ac.toNat)))
    {i : Instr} {t : State} (h : exec i s = .next t) : motive i t := by
  cases i with
  | null => cases h; exact null
  | clearDisplay => cases h; exact clear
  | returnHome => cases h; exact home
  | entryModeSet id sh => cases h; exact entry id sh
  | displayControl d c b => cases h; exact display d c b
  | cursorDisplayShift sc rl => cases sc <;> cases h <;> [exact move rl; exact shift rl]
  | functionSet dl n f =>
    simp only [exec, execFunctionSet] at h
    split at h <;> cases h
    · exact rejected dl n f ‹_›
    · exact accepted dl n f (Bool.eq_false_iff.2 ‹_›)
  | setCgramAddr a => cases h; exact cgaddr a
  | setDdramAddr a => cases h; exact ddaddr a
  | statusRead =>
    simp only [exec, execStatusRead] at h
    split at h <;> cases h
    · exact status8 ‹_›
    · exact statusHigh ‹_› ‹_›
    · exact statusLow ‹_› ‹_›
  | dataWrite v =>
    simp only [exec, execDataWrite] at h
    split at h
    · cases h; exact dropWrite v ‹_›
    · split at h <;> cases h
      exact write v (Bool.eq_false_iff.2 ‹_›) ‹_›
  | dataRead =>
    simp only [exec, execDataRead] at h
    split at h
    · cases h; exact dropRead ‹_›
    · split at h <;> cases h
      exact read (Bool.eq_false_iff.2 ‹_›) ‹_›

/-- The next states of an accepted data-read transaction (rules R94, R106). -/
theorem loadData_elim {s : State} {v : Byte} {motive : State → Prop}
    (eight : s.ctl.dataLen = .eight → motive (s.finishRead.answer (.byte v)))
    (high : s.ctl.dataLen = .four → s.ctl.phase = .high →
      motive ((s.onCtl fun c => { c with phase := .low }).answer (.byte (readHigh v))))
    (low : s.ctl.dataLen = .four → s.ctl.phase = .low →
      motive (((s.onCtl fun c => { c with phase := .high }).finishRead).answer (.byte (readLow v)))) :
    motive (s.loadData v) := by
  unfold State.loadData
  split
  · exact eight ‹_›
  · exact high ‹_› ‹_›
  · exact low ‹_› ‹_›

/-- Where AC names a cell, every operation completes (rule R127). -/
theorem exec_completes {s : State} (h : s.ctl.cellExists s.cfg = true) (i : Instr) : ∃ t, exec i s = .next t := by
  cases i with
  | functionSet dl n f => simp only [exec, execFunctionSet]; split <;> exact ⟨_, rfl⟩
  | statusRead => simp only [exec, execStatusRead]; split <;> exact ⟨_, rfl⟩
  | dataWrite v => simp only [exec, execDataWrite, h, if_true]; split <;> exact ⟨_, rfl⟩
  | dataRead => simp only [exec, execDataRead, h, if_true]; split <;> exact ⟨_, rfl⟩
  | null | clearDisplay | returnHome | entryModeSet | displayControl | cursorDisplayShift | setCgramAddr
  | setDdramAddr => exact ⟨_, rfl⟩

/-- What a bus transaction comes to (rules R100 to R107). `c` is the controller after the level check. -/
theorem multiplex_elim {s : State} {rs rw : Bool} {db : Byte} {motive : Transaction → Prop}
    (dropped : rs = true → s.ctl.busy = true →
      motive (.ends ((s.onCtl fun c => c.levelCheck rs rw).dropData rw db)))
    (command8 : rs = false → rw = false → s.ctl.dataLen = .eight →
      motive (.completes (decodeCommand db) (s.onCtl fun c => { c.levelCheck rs rw with ir := db })))
    (write8 : rs = true → rw = false → s.ctl.busy = false → s.ctl.dataLen = .eight →
      motive (.completes (.dataWrite db) (s.onCtl fun c => c.levelCheck rs rw)))
    (statusRead : rs = false → rw = true → motive (.completes .statusRead (s.onCtl fun c => c.levelCheck rs rw)))
    (dataRead : rs = true → rw = true → s.ctl.busy = false →
      motive (.completes .dataRead (s.onCtl fun c => c.levelCheck rs rw)))
    (commandHigh : rs = false → rw = false → s.ctl.dataLen = .four → (s.ctl.levelCheck rs rw).phase = .high →
      motive (.ends (s.onCtl fun c => { c.levelCheck rs rw with ir := firstNibble db, phase := .low })))
    (commandLow : rs = false → rw = false → s.ctl.dataLen = .four → (s.ctl.levelCheck rs rw).phase = .low →
      motive (.completes (decodeCommand (secondNibble s.ctl.ir db))
        (s.onCtl fun c => { c.levelCheck rs rw with ir := secondNibble s.ctl.ir db, phase := .high })))
    (writeHigh : rs = true → rw = false → s.ctl.busy = false → s.ctl.dataLen = .four →
      (s.ctl.levelCheck rs rw).phase = .high →
      motive (.ends (s.onCtl fun c => { c.levelCheck rs rw with dr := firstNibble db, phase := .low })))
    (writeLow : rs = true → rw = false → s.ctl.busy = false → s.ctl.dataLen = .four →
      (s.ctl.levelCheck rs rw).phase = .low →
      motive (.completes (.dataWrite (secondNibble s.ctl.dr db))
        (s.onCtl fun c => { c.levelCheck rs rw with dr := secondNibble s.ctl.dr db, phase := .high }))) :
    motive (multiplex rs rw db s) := by
  unfold multiplex
  dsimp only
  by_cases h : (rs && (s.onCtl fun c => c.levelCheck rs rw).ctl.busy) = true
  · rw [if_pos h]
    simp only [onCtl_ctl, levelCheck_busy, Bool.and_eq_true] at h
    exact dropped h.1 h.2
  · rw [if_neg h]
    simp only [onCtl_ctl, levelCheck_busy, levelCheck_dataLen] at h ⊢
    have hb : rs = true → s.ctl.busy = false := fun hr => by simpa [hr] using h
    cases hl : s.ctl.dataLen with
    | eight =>
      cases rs <;> cases rw
      · exact command8 rfl rfl hl
      · exact statusRead rfl rfl
      · exact write8 rfl rfl (hb rfl) hl
      · exact dataRead rfl rfl (hb rfl)
    | four =>
      cases rs <;> cases rw
      · cases hp : (s.ctl.levelCheck false false).phase with
        | high =>
          simp only [forward4, nibbleControlWrite, onCtl_ctl, hp]
          exact commandHigh rfl rfl hl hp
        | low =>
          simp only [forward4, nibbleControlWrite, onCtl_ctl, hp]
          exact commandLow rfl rfl hl hp
      · exact statusRead rfl rfl
      · cases hp : (s.ctl.levelCheck true false).phase with
        | high =>
          simp only [forward4, nibbleDataWrite, onCtl_ctl, hp]
          exact writeHigh rfl rfl (hb rfl) hl hp
        | low =>
          simp only [forward4, nibbleDataWrite, onCtl_ctl, hp]
          exact writeLow rfl rfl (hb rfl) hl hp
      · exact dataRead rfl rfl (hb rfl)

/-- A transaction with a next state either completes an operation that runs, or ends in that state. -/
theorem transact_next {rs rw : Bool} {db : Byte} {s t : State} (h : transact rs rw db s = .next t) :
    (∃ i s1, multiplex rs rw db s = .completes i s1 ∧ exec i s1 = .next t) ∨ multiplex rs rw db s = .ends t := by
  unfold transact at h
  split at h
  · exact .inl ⟨_, _, ‹_›, h⟩
  · cases h; exact .inr ‹_›

/-- The next states of `latch` (rules R110, R111). -/
theorem latch_elim {s t : State} {e : Bool} {motive : State → Prop} (h : latch e s = .next t)
    (same : motive s)
    (level : motive (s.onCtl fun c => { c with eLevel := e }))
    (rise : ∀ u, e = true → s.ctl.eLevel = false → s.ctl.rwIn = true → transact s.ctl.rsIn true 0x00 s = .next u →
      motive u.latchRead)
    (fall : ∀ u, e = false → s.ctl.eLevel = true → s.ctl.rwIn = false →
      transact s.ctl.rsIn false s.ctl.dbIn s = .next u → motive (u.onCtl fun c => { c with eLevel := false })) :
    motive t := by
  unfold latch at h
  split at h
  · split at h
    · rename_i he hw
      cases hu : transact s.ctl.rsIn true 0x00 s with
      | next u => rw [hu] at h; cases h; exact rise u rfl he hw hu
      | fault r => rw [hu] at h; cases h
      | refused r => rw [hu] at h; cases h
    · cases h; exact level
  · split at h
    · cases h; exact level
    · rename_i he hw
      cases hu : transact s.ctl.rsIn false s.ctl.dbIn s with
      | next u => rw [hu] at h; cases h; exact fall u rfl he (by simpa using hw) hu
      | fault r => rw [hu] at h; cases h
      | refused r => rw [hu] at h; cases h
  · cases h; exact same
  · cases h; exact same

/-- A step with a next state: the configuration can be built, and either a timer fires or a host event is
delivered. -/
theorem step_next {s t : State} (h : step s = .next t) :
    s.cfg.check = none ∧
      ((∃ k u, s.upcoming = .timer k u ∧ t = fire k { s with now := u, inbox := s.inboxAfter k u, reply := none }) ∨
        ∃ d rest u, s.upcoming = .host d rest u ∧
          deliver d.event { s with now := u, inbox := rest, reply := none } = .next t) := by
  unfold step at h
  split at h
  · cases h
  · refine ⟨‹_›, ?_⟩
    unfold State.process at h
    split at h
    · cases h; exact .inl ⟨_, _, ‹_›, rfl⟩
    · exact .inr ⟨_, _, _, ‹_›, h⟩

/-- Which timer comes next, and when (rules R138, R140). -/
theorem nextTimer_elim {s : State} {motive : Upcoming → Prop}
    (blink : (∀ b, s.ctl.busyDeadline = some b → s.ctl.blinkDeadline < b) → motive (.timer .blink s.ctl.blinkDeadline))
    (busy : ∀ b, s.ctl.busyDeadline = some b → b ≤ s.ctl.blinkDeadline → motive (.timer .busy b)) :
    motive s.nextTimer := by
  unfold State.nextTimer
  split
  · exact blink (fun b hb => by simp_all)
  · rename_i b hb
    split
    · rename_i hlt
      exact blink (fun b' hb' => by
        obtain rfl : b = b' := by simpa [hb] using hb'
        exact (Time.before_iff _ _).1 hlt)
    · rename_i hlt
      exact busy b hb ((Time.before_false_iff _ _).1 (by simpa using hlt))

theorem dueBefore_false {a t : Time} {first : Bool} (h : dueBefore a t first = false) : t ≤ a := by
  simp only [dueBefore, Bool.or_eq_false_iff] at h
  exact (Time.before_false_iff _ _).1 h.1

theorem dueBefore_true {a t : Time} {first : Bool} (h : dueBefore a t first = true) : a ≤ t := by
  simp only [dueBefore, Bool.or_eq_true, Bool.and_eq_true, decide_eq_true_eq] at h
  rcases h with h | h
  · exact le_of_lt ((Time.before_iff _ _).1 h)
  · exact le_of_eq h.1

/-- What comes next (rules R134, R141): a timer at its own deadline, the other one not earlier, or the head of the
inbox, no deadline earlier. -/
theorem upcoming_elim {s : State} {motive : Upcoming → Prop}
    (blink : (∀ b, s.ctl.busyDeadline = some b → s.ctl.blinkDeadline ≤ b) → motive (.timer .blink s.ctl.blinkDeadline))
    (busy : ∀ b, s.ctl.busyDeadline = some b → b ≤ s.ctl.blinkDeadline → motive (.timer .busy b))
    (host : ∀ d rest, s.inbox = d :: rest → max s.now d.time ≤ s.ctl.blinkDeadline →
      (∀ b, s.ctl.busyDeadline = some b → max s.now d.time ≤ b) → motive (.host d rest (max s.now d.time))) :
    motive s.upcoming := by
  unfold State.upcoming
  split
  · exact nextTimer_elim (fun h => blink fun b hb => le_of_lt (h b hb)) busy
  · rename_i d rest hbox
    rw [Time.later_eq]
    dsimp only
    have hbusy : s.busyDue (max s.now d.time) d.busyFirst = false →
        ∀ b, s.ctl.busyDeadline = some b → max s.now d.time ≤ b := fun h b hb => by
      unfold State.busyDue at h; rw [hb] at h; exact dueBefore_false h
    split
    · rename_i h1 h2; exact host d rest hbox (dueBefore_false h2) (hbusy h1)
    · rename_i h1 h2
      unfold State.busyDue at h1
      split at h1
      · cases h1
      · rename_i b hb
        rw [hb]
        exact busy b hb (le_trans (dueBefore_true h1) (dueBefore_false h2))
    · rename_i h1 h2
      exact blink fun b hb => le_trans (dueBefore_true h2) (hbusy h1 b hb)
    · exact nextTimer_elim (fun h => blink fun b hb => le_of_lt (h b hb)) busy

end Sys2Proof.Machine
end

