-- ==== Sys2Proof/Laws/Transactions.lean ====
section
/-! SUPPORT. What a bus transaction is in each width, as an equation each (rules R100 to R107), and what it does with
the three-line latches: it neither reads nor writes them. -/

namespace Sys2Proof.Machine

/-! ### The level check -/

/-- In 8-bit mode the level check only records the levels (rule R101). -/
theorem Controller.levelCheck_eight {c : Controller} {rs rw : Bool} (h : c.dataLen = .eight) :
    c.levelCheck rs rw = { c with lastRs := rs, lastRw := rw } := by
  simp [Controller.levelCheck, h]

/-- Where a write transaction in 4-bit mode is a first one. -/
theorem Controller.levelCheck_high {c : Controller} {rs : Bool} (hl : c.dataLen = .four)
    (h : c.phase = .high ∨ rs ≠ c.lastRs ∨ c.lastRw = true) : (c.levelCheck rs false).phase = .high := by
  simp only [Controller.levelCheck]
  split
  · rfl
  · rename_i h2
    simp only [hl, true_and, not_or, not_not, ne_eq] at h2
    rcases h with h | h | h
    · exact h
    · exact absurd h2.1 h
    · rw [← h2.2] at h; cases h

/-- Where a write transaction in 4-bit mode is a second one. -/
theorem Controller.levelCheck_low {c : Controller} {rs : Bool}
    (h : c.phase = .low ∧ rs = c.lastRs ∧ c.lastRw = false) : (c.levelCheck rs false).phase = .low := by
  simp [Controller.levelCheck, h]

/-! ### The transactions -/

/-- A transaction in 8-bit mode, dropped ones included: a dropped data operation is its own meaning's drop. -/
theorem transact_eight {s : State} {rs rw : Bool} {db : Byte} (h : s.ctl.dataLen = .eight) :
    transact rs rw db s = exec (decodeBus rs rw db) { s with
      ctl := { s.ctl with
        lastRs := rs, lastRw := rw,
        ir := if rs = false ∧ rw = false then db else s.ctl.ir } } := by
  unfold transact multiplex
  simp only [State.onCtl, Controller.levelCheck_eight h, h]
  cases rs <;> cases rw <;> cases hb : s.ctl.busy <;>
    simp [forward8, State.onCtl, decodeBus, exec, execDataWrite, execDataRead, State.dropData, State.dropRead, State.dropWrite]

/-- The first write transaction of a pair in 4-bit mode. -/
theorem transact_firstNibble {s : State} {rs : Bool} {db : Byte} (hl : s.ctl.dataLen = .four)
    (hb : rs = true → s.ctl.busy = false) (hp : (s.ctl.levelCheck rs false).phase = .high) :
    transact rs false db s = .next { s with ctl := { s.ctl with
      lastRs := rs, lastRw := false, phase := .low,
      ir := if rs then s.ctl.ir else firstNibble db,
      dr := if rs then firstNibble db else s.ctl.dr } } := by
  have hbs : (rs && s.ctl.busy) = false := by cases rs <;> simp_all
  unfold transact multiplex
  simp only [State.onCtl, levelCheck_busy, levelCheck_dataLen, hbs, Bool.false_eq_true, if_false]
  rw [hl]
  cases rs <;> simp only [forward4, nibbleControlWrite, nibbleDataWrite, State.onCtl, hp] <;> simp only [← hl] <;> rfl

/-- The second write transaction of a pair in 4-bit mode. -/
theorem transact_secondNibble {s : State} {rs : Bool} {db : Byte} (hl : s.ctl.dataLen = .four)
    (hb : rs = true → s.ctl.busy = false) (hp : (s.ctl.levelCheck rs false).phase = .low) :
    transact rs false db s = exec (decodeBus rs false (secondNibble (if rs then s.ctl.dr else s.ctl.ir) db))
      { s with ctl := { s.ctl with
        lastRs := rs, lastRw := false, phase := .high,
        ir := if rs then s.ctl.ir else secondNibble s.ctl.ir db,
        dr := if rs then secondNibble s.ctl.dr db else s.ctl.dr } } := by
  have hbs : (rs && s.ctl.busy) = false := by cases rs <;> simp_all
  unfold transact multiplex
  simp only [State.onCtl, levelCheck_busy, levelCheck_dataLen, hbs, Bool.false_eq_true, if_false]
  rw [hl]
  cases rs <;> simp only [forward4, nibbleControlWrite, nibbleDataWrite, State.onCtl, hp] <;> simp only [← hl] <;> rfl

/-- A read transaction in 4-bit mode that the busy gate lets through. -/
theorem transact_read_four {s : State} {rs : Bool} (hl : s.ctl.dataLen = .four)
    (hb : rs = true → s.ctl.busy = false) :
    transact rs true 0x00 s = exec (decodeBus rs true 0x00) { s with ctl := s.ctl.levelCheck rs true } := by
  have hbs : (rs && s.ctl.busy) = false := by cases rs <;> simp_all
  unfold transact multiplex
  simp only [State.onCtl, levelCheck_busy, levelCheck_dataLen, hbs, Bool.false_eq_true, if_false]
  rw [hl]
  cases rs <;> rfl

/-- A read transaction returns a byte. -/
theorem transact_read_answers {rs : Bool} {db : Byte} {s t : State} (h : transact rs true db s = .next t) :
    ∃ v, t.reply = some (.byte v) := by
  rcases transact_next h with ⟨i, s1, h1, h2⟩ | h1
  · have hi : i = .statusRead ∨ i = .dataRead := by
      revert h1
      refine multiplex_elim (motive := fun T => T = .completes i s1 → _) ?_ ?_ ?_ ?_ ?_ ?_ ?_ ?_ ?_ <;> intros <;>
        simp_all
    rcases hi with rfl | rfl
    · simp only [exec, execStatusRead] at h2; split at h2 <;> cases h2 <;> exact ⟨_, rfl⟩
    · simp only [exec, execDataRead] at h2; split at h2
      · cases h2; exact ⟨_, rfl⟩
      · split at h2 <;> cases h2
        refine loadData_elim (motive := fun t => ∃ v, t.reply = some (.byte v)) ?_ ?_ ?_ <;> intros <;> exact ⟨_, rfl⟩
  · revert h1
    refine multiplex_elim (motive := fun T => T = .ends t → _) ?_ ?_ ?_ ?_ ?_ ?_ ?_ ?_ ?_ <;> intros <;> simp_all
    rename_i h
    rw [← h]
    exact ⟨_, rfl⟩

/-- A step that delivers a host event. -/
theorem step_host {s : State} {d : Delivery} {rest : List Delivery} {t : Time} (hc : s.cfg.check = none)
    (hu : s.upcoming = .host d rest t) :
    step s = deliver d.event { s with now := t, inbox := rest, reply := none } := by
  unfold step
  rw [hc]
  simp only [State.process, hu]

/-! ### The three-line latches -/

/-- The input latches and the level of E at these values. -/
def State.withPins (a b : Bool) (v : Byte) (e : Bool) (s : State) : State :=
  { s with ctl := { s.ctl with rsIn := a, rwIn := b, dbIn := v, eLevel := e } }

/-- Apply `f` to the state a transaction comes to. -/
def Transaction.map (f : State → State) : Transaction → Transaction
  | .completes i s => .completes i (f s)
  | .ends s => .ends (f s)

theorem multiplex_withPins (rs rw : Bool) (db : Byte) (s : State) (a b : Bool) (v : Byte) (e : Bool) :
    multiplex rs rw db (s.withPins a b v e) = (multiplex rs rw db s).map (State.withPins a b v e) := by
  unfold multiplex
  have hx : (s.withPins a b v e).onCtl (fun c => c.levelCheck rs rw) =
    (s.onCtl fun c => c.levelCheck rs rw).withPins a b v e := rfl
  rw [hx]
  obtain ⟨u, hu⟩ : ∃ u, s.onCtl (fun c => c.levelCheck rs rw) = u := ⟨_, rfl⟩
  have hd : (u.withPins a b v e).ctl.dataLen = u.ctl.dataLen := rfl
  have hp : (u.withPins a b v e).ctl.phase = u.ctl.phase := rfl
  rw [hu]
  dsimp only
  by_cases h : (rs && u.ctl.busy) = true
  · have h' : (rs && (u.withPins a b v e).ctl.busy) = true := h
    rw [if_pos h, if_pos h']
    cases rw <;> rfl
  · have h' : ¬(rs && (u.withPins a b v e).ctl.busy) = true := h
    rw [if_neg h, if_neg h', hd]
    rcases hl : u.ctl.dataLen with _ | _
    · cases rs <;> cases rw
      · simp only [forward4, nibbleControlWrite, hp]; rcases hq : u.ctl.phase with _ | _ <;> rfl
      · rfl
      · simp only [forward4, nibbleDataWrite, hp]; rcases hq : u.ctl.phase with _ | _ <;> rfl
      · rfl
    · cases rs <;> cases rw <;> rfl

theorem storeData_withPins (s : State) (n : Nat) (x : Byte) (a b : Bool) (v : Byte) (e : Bool) :
    (s.withPins a b v e).onCtl (fun c => c.storeData n x) = (s.onCtl fun c => c.storeData n x).withPins a b v e := by
  simp only [State.withPins, State.onCtl, Controller.storeData_eq]
  cases hb : s.ctl.bank <;> cases hs : s.ctl.shiftOn <;>
    simp [Controller.memWrite, Controller.updateAC, Controller.setAC, Controller.shiftDisplay, hs, hb]

theorem exec_withPins (i : Instr) (a b : Bool) (v : Byte) (e : Bool) (s : State) :
    exec i (s.withPins a b v e) = andThen (exec i s) (State.withPins a b v e) := by
  have hd : (s.withPins a b v e).ctl.dataLen = s.ctl.dataLen := rfl
  have hp : (s.withPins a b v e).ctl.phase = s.ctl.phase := rfl
  cases i with
  | functionSet x y z =>
    simp only [exec, execFunctionSet]
    by_cases h : s.ctl.functionSetRejected x y z = true
    · have h' : (s.withPins a b v e).ctl.functionSetRejected x y z = true := h
      rw [if_pos h, if_pos h']; rfl
    · have h' : ¬(s.withPins a b v e).ctl.functionSetRejected x y z = true := h
      rw [if_neg h, if_neg h']; rfl
  | statusRead =>
    simp only [exec, execStatusRead, hd, hp]
    rcases hl : s.ctl.dataLen with _ | _ <;> rcases hq : s.ctl.phase with _ | _ <;> rfl
  | dataRead =>
    simp only [exec, execDataRead]
    by_cases h : s.ctl.busy = true
    · have h' : (s.withPins a b v e).ctl.busy = true := h
      rw [if_pos h, if_pos h']; rfl
    · have h' : ¬(s.withPins a b v e).ctl.busy = true := h
      rw [if_neg h, if_neg h']
      by_cases h : s.ctl.cellExists s.cfg = true
      · have h' : (s.withPins a b v e).ctl.cellExists (s.withPins a b v e).cfg = true := h
        rw [if_pos h, if_pos h']
        simp only [State.loadData, hd, hp]
        rcases hl : s.ctl.dataLen with _ | _ <;> rcases hq : s.ctl.phase with _ | _ <;> rfl
      · have h' : ¬(s.withPins a b v e).ctl.cellExists (s.withPins a b v e).cfg = true := h
        rw [if_neg h, if_neg h']; rfl
  | dataWrite w =>
    simp only [exec, execDataWrite]
    by_cases h : s.ctl.busy = true
    · have h' : (s.withPins a b v e).ctl.busy = true := h
      rw [if_pos h, if_pos h']; rfl
    · have h' : ¬(s.withPins a b v e).ctl.busy = true := h
      rw [if_neg h, if_neg h']
      by_cases h : s.ctl.cellExists s.cfg = true
      · have h' : (s.withPins a b v e).ctl.cellExists (s.withPins a b v e).cfg = true := h
        rw [if_pos h, if_pos h']
        exact congrArg (fun u => Host.Outcome.next (u.armBusy s.cfg.tMedium)) (storeData_withPins ..)
      · have h' : ¬(s.withPins a b v e).ctl.cellExists (s.withPins a b v e).cfg = true := h
        rw [if_neg h, if_neg h']; rfl
  | cursorDisplayShift sc rl => cases sc <;> rfl
  | null | clearDisplay | returnHome | entryModeSet | displayControl | setCgramAddr | setDdramAddr => rfl

/-- A bus transaction neither reads nor writes the three-line latches. -/
theorem transact_withPins (rs rw : Bool) (db : Byte) (s : State) (a b : Bool) (v : Byte) (e : Bool) :
    transact rs rw db (s.withPins a b v e) = andThen (transact rs rw db s) (State.withPins a b v e) := by
  unfold transact
  rw [multiplex_withPins]
  cases multiplex rs rw db s
  · exact exec_withPins ..
  · rfl

end Sys2Proof.Machine
end

