-- ==== Sys2Proof/Laws/Effects.lean ====
section
/-! SUPPORT. Preservation, packaged once: a property that the operations, the transactions and the latches keep is
kept by every delivery; and the elements that only an operation or a reset can change. -/

namespace Sys2Proof

/-- What a configuration that can be built guarantees (rules R5, R131). -/
structure Config.Buildable (c : Config) : Prop where
  timingFactor_pos : 0 < c.timingFactor
  tShort_nonneg : 0 ≤ c.tShort
  tMedium_nonneg : 0 ≤ c.tMedium
  tLong_nonneg : 0 ≤ c.tLong
  tBlink_nonneg : 0 ≤ c.tBlink
  geometry : c.geometrySupported = true
  rams : c.ramsSuffice = true
  ring : c.ringSupported = true

/-- A check in front of others passes when its condition is false and they pass. -/
theorem ite_some_eq_none {α : Type} {b : Bool} {e : α} {o : Option α} :
    (if b = true then some e else o) = none ↔ b = false ∧ o = none := by
  cases b <;> simp

/-- The check passes exactly the configurations that can be built. -/
theorem Config.check_none_iff {c : Config} : c.check = none ↔ c.Buildable := by
  simp only [Config.check, ite_some_eq_none, Bool.not_eq_false', Bool.or_eq_false_iff]
  simp only [Time.before_iff, Time.before_false_iff]
  exact ⟨fun ⟨h1, h2, ⟨⟨h3, h4⟩, h5⟩, h6, h7, h8, _⟩ => ⟨h2, h3, h4, h5, h6, h1, h7, h8⟩,
    fun ⟨h2, h3, h4, h5, h6, h1, h7, h8⟩ => ⟨h1, h2, ⟨⟨h3, h4⟩, h5⟩, h6, h7, h8, trivial⟩⟩

/-- The display ring of a configuration that can be built has positions. -/
theorem Config.Buildable.ring_pos {c : Config} (h : c.Buildable) : 0 < c.displayRing := by
  have := h.ring
  simp only [Config.ringSupported, Bool.and_eq_true, decide_eq_true_eq] at this
  omega

end Sys2Proof

namespace Sys2Proof.Machine

theorem State.Inv.buildable {s : State} (hi : s.Inv) : s.cfg.Buildable :=
  Config.check_none_iff.1 hi.cfg_ok

/-- In a state of the invariant AC names a cell (rules R17, R47). -/
theorem State.Inv.cellExists {s : State} (hi : s.Inv) : s.ctl.cellExists s.cfg = true :=
  Controller.cellExists_of_acValid hi.buildable.rams hi.ac_valid

/-- A busy deadline does not lie in the past of its command (rules R136, R141). -/
theorem now_le_deadline {s : State} {b : Time} (h : s.cfg.check = none) (hb : 0 ≤ b) :
    s.now ≤ Time.plus s.now (Time.scaled b s.cfg.timingFactor) := by
  rw [Time.plus_eq, Time.scaled_eq]
  have : 0 ≤ b * s.cfg.timingFactor := mul_nonneg hb (le_of_lt (Config.check_none_iff.1 h).timingFactor_pos)
  linarith

/-- The state that a transaction comes to. -/
def Transaction.state : Transaction → State
  | .completes _ s => s
  | .ends s => s

theorem transact_keeps {P : State → Prop}
    (hx : ∀ rs rw db s i u t, P s → multiplex rs rw db s = .completes i u → P u → exec i u = .next t → P t)
    (hm : ∀ rs rw db s, P s → P (multiplex rs rw db s).state) {rs rw : Bool} {db : Byte} {s t : State} (hs : P s)
    (h : transact rs rw db s = .next t) : P t := by
  have := hm rs rw db s hs
  rcases transact_next h with ⟨i, s1, h1, h2⟩ | h1
  · rw [h1] at this; exact hx _ _ _ _ _ _ _ hs h1 this h2
  · rw [h1] at this; exact this

/-- What every delivery keeps: a property that the operations, the multiplexer, the latches, the reply and a reset
keep. -/
theorem deliver_keeps {P : State → Prop}
    (hx : ∀ rs rw db s i u t, P s → multiplex rs rw db s = .completes i u → P u → exec i u = .next t → P t)
    (hm : ∀ rs rw db s, P s → P (multiplex rs rw db s).state)
    (hp : ∀ s a b v e o, P s →
      P { s with ctl := { s.ctl with rsIn := a, rwIn := b, dbIn := v, eLevel := e, dbOut := o } })
    (ha : ∀ s r, P s → P { s with reply := r }) {e : HostEvent} {s t : State}
    (hr : e = .reset → ∀ s, P s → P (s.onCtl fun _ => Controller.atReset s.cfg s.now)) (hs : P s)
    (h : deliver e s = .next t) : P t := by
  cases e with
  | write rs v => exact transact_keeps hx hm hs h
  | read rs => exact transact_keeps hx hm hs h
  | setRegisterSelect b => cases h; exact hp s b s.ctl.rwIn s.ctl.dbIn s.ctl.eLevel s.ctl.dbOut hs
  | setReadWrite b => cases h; exact hp s s.ctl.rsIn b s.ctl.dbIn s.ctl.eLevel s.ctl.dbOut hs
  | setDataBus v => cases h; exact hp s s.ctl.rsIn s.ctl.rwIn v s.ctl.eLevel s.ctl.dbOut hs
  | latch e =>
    refine latch_elim h hs (hp s s.ctl.rsIn s.ctl.rwIn s.ctl.dbIn e s.ctl.dbOut hs) ?_ ?_
    · intro u _ _ _ hu
      exact ha _ _ (hp u u.ctl.rsIn u.ctl.rwIn u.ctl.dbIn true _ (transact_keeps hx hm hs hu))
    · intro u _ _ _ hu
      exact hp u u.ctl.rsIn u.ctl.rwIn u.ctl.dbIn false u.ctl.dbOut (transact_keeps hx hm hs hu)
  | getDataBus => cases h; exact ha _ _ hs
  | reset => cases h; exact hr rfl s hs
  | isBusy => cases h; exact ha _ _ hs
  | render => cases h; exact ha _ _ hs

/-- What the multiplexer keeps: a property that does not depend on the levels, IR, DR, the trace or the reply, nor on
the phase in 4-bit mode. -/
theorem multiplex_keeps {P : State → Prop}
    (h1 : ∀ s a b ir dr p, P s → (s.ctl.dataLen = .eight → p = s.ctl.phase) →
      P { s with ctl := { s.ctl with lastRs := a, lastRw := b, ir := ir, dr := dr, phase := p } })
    (h2 : ∀ s k n, P s → P (s.raiseDiag k n)) (h3 : ∀ s r, P s → P (s.answer r)) (rs rw : Bool) (db : Byte) (s : State)
    (hs : P s) : P (multiplex rs rw db s).state := by
  have hl : ∀ rs rw, s.ctl.dataLen = .eight → (s.ctl.levelCheck rs rw).phase = s.ctl.phase := by
    intro rs rw h; simp [Controller.levelCheck, h]
  refine multiplex_elim (motive := fun T => P T.state) ?_ ?_ ?_ ?_ ?_ ?_ ?_ ?_ ?_
  · intro _ _
    have := h1 s rs rw s.ctl.ir s.ctl.dr _ hs (hl rs rw)
    unfold State.dropData
    split
    · exact h3 _ _ (h2 _ _ _ this)
    · exact h2 _ _ _ this
  · intro _ _ _; exact h1 s rs rw db s.ctl.dr _ hs (hl rs rw)
  · intro _ _ _ _; exact h1 s rs rw s.ctl.ir s.ctl.dr _ hs (hl rs rw)
  · intro _ _; exact h1 s rs rw s.ctl.ir s.ctl.dr _ hs (hl rs rw)
  · intro _ _ _; exact h1 s rs rw s.ctl.ir s.ctl.dr _ hs (hl rs rw)
  · intro _ _ hf _; exact h1 s rs rw (firstNibble db) s.ctl.dr .low hs (by simp [hf])
  · intro _ _ hf _; exact h1 s rs rw (secondNibble s.ctl.ir db) s.ctl.dr .high hs (by simp [hf])
  · intro _ _ _ hf _; exact h1 s rs rw s.ctl.ir (firstNibble db) .low hs (by simp [hf])
  · intro _ _ _ hf _; exact h1 s rs rw s.ctl.ir (secondNibble s.ctl.dr db) .high hs (by simp [hf])

/-- The elements that only an operation or a reset changes: the others at fixed values. -/
def Controller.core (c : Controller) : Controller :=
  { c with
    ir := 0, dr := 0, phase := .high, lastRs := false, lastRw := false, rsIn := false, rwIn := false, dbIn := 0,
    eLevel := false, dbOut := 0, busy := false, busyDeadline := none, blinkPhase := false, blinkDeadline := 0 }

/-- Up to the operation it completes, a transaction changes no such element, nor busy. -/
theorem multiplex_core (rs rw : Bool) (db : Byte) (s : State) :
    (multiplex rs rw db s).state.ctl.core = s.ctl.core ∧ (multiplex rs rw db s).state.ctl.busy = s.ctl.busy := by
  refine multiplex_elim (motive := fun T => T.state.ctl.core = s.ctl.core ∧ T.state.ctl.busy = s.ctl.busy)
    ?_ ?_ ?_ ?_ ?_ ?_ ?_ ?_ ?_ <;> intros
  · cases rw <;> exact ⟨rfl, rfl⟩
  all_goals exact ⟨rfl, rfl⟩

theorem transact_core {rs rw : Bool} {db : Byte} {s t : State} (h : transact rs rw db s = .next t) :
    (∃ i u, multiplex rs rw db s = .completes i u ∧ u.ctl.core = s.ctl.core ∧ u.ctl.busy = s.ctl.busy ∧
      exec i u = .next t) ∨ t.ctl.core = s.ctl.core := by
  have hc := multiplex_core rs rw db s
  rcases transact_next h with ⟨i, u, h1, h2⟩ | h1
  · rw [h1] at hc; exact .inl ⟨i, u, h1, hc.1, hc.2, h2⟩
  · rw [h1] at hc; exact .inr hc.1

/-- A step that is no reset changes such an element only through the operation it completes. -/
theorem step_core {s t : State} (h : step s = .next t) (hr : s.nextIsReset = false) :
    t.ctl.core = s.ctl.core ∨ ∃ i u t', s.nextInstr = some i ∧ u.ctl.core = s.ctl.core ∧ u.ctl.busy = s.ctl.busy ∧
      exec i u = .next t' ∧ t'.ctl.core = t.ctl.core := by
  obtain ⟨_, h⟩ := step_next h
  rcases h with ⟨k, u, hu, rfl⟩ | ⟨d, rest, u, hu, hd⟩
  · left; cases k <;> rfl
  · have hnr : d.event ≠ .reset := by
      unfold State.nextIsReset at hr; rw [hu] at hr; simpa using hr
    have hni : ∀ rs rw db i v, s.ctl.transactionOf d.event = some (rs, rw, db) →
        multiplex rs rw db { s with now := u, inbox := rest, reply := none } = .completes i v →
        s.nextInstr = some i := by
      intro rs rw db i v h1 h2
      unfold State.nextInstr
      rw [hu]
      dsimp only
      rw [h1]
      dsimp only [Option.bind]
      rw [h2]
      rfl
    have tr : ∀ rs rw db t', s.ctl.transactionOf d.event = some (rs, rw, db) →
        transact rs rw db { s with now := u, inbox := rest, reply := none } = .next t' → t'.ctl.core = t.ctl.core →
        t.ctl.core = s.ctl.core ∨ ∃ i v t', s.nextInstr = some i ∧ v.ctl.core = s.ctl.core ∧
          v.ctl.busy = s.ctl.busy ∧ exec i v = .next t' ∧ t'.ctl.core = t.ctl.core := by
      intro rs rw db t' h1 h2 h0
      rcases transact_core h2 with ⟨i, v, h3, h4, h5, h6⟩ | h3
      · exact .inr ⟨i, v, t', hni _ _ _ _ _ h1 h3, h4, h5, h6, h0⟩
      · exact .inl (h0.symm.trans h3)
    cases he : d.event with
    | write rs v => rw [he] at hd tr; exact tr rs false v t rfl hd rfl
    | read rs => rw [he] at hd tr; exact tr rs true 0 t rfl hd rfl
    | latch e =>
      rw [he] at hd tr
      refine latch_elim (motive := fun x => x.ctl.core = t.ctl.core → _) hd ?_ ?_ ?_ ?_ rfl
      · intro h; left; exact h.symm
      · intro h; left; exact h.symm
      · intro w h1 h2 h3 h4 h5
        subst h1
        have h2' : s.ctl.eLevel = false := h2
        have h3' : s.ctl.rwIn = true := h3
        exact tr s.ctl.rsIn true 0 w (by simp [Controller.transactionOf, h2', h3']) h4 h5
      · intro w h1 h2 h3 h4 h5
        subst h1
        have h2' : s.ctl.eLevel = true := h2
        have h3' : s.ctl.rwIn = false := h3
        exact tr s.ctl.rsIn false s.ctl.dbIn w (by simp [Controller.transactionOf, h2', h3']) h4 h5
    | reset => exact absurd he hnr
    | setRegisterSelect | setReadWrite | setDataBus | getDataBus | isBusy | render =>
      rw [he] at hd; cases hd; left; rfl

end Sys2Proof.Machine
end

