-- ==== Sys2Proof/Laws/PerInstr.lean ====
section
/-! SUPPORT. The family `TableRow`: the word of an operation selects its own row of the opcode table and no other
(rules R58, R59). -/

namespace Sys2Proof.Laws.TableRow

/-- The one row that the word of `i` selects is the row of `i`. -/
def Statement (i : Instr) : Prop := selectedRows (encode i) = [i.mnemonic]

theorem null : Statement .null := by unfold Statement; decide

theorem clearDisplay : Statement .clearDisplay := by unfold Statement; decide

theorem returnHome : Statement .returnHome := by unfold Statement; decide

theorem entryModeSet (id s : Bool) : Statement (.entryModeSet id s) := by
  unfold Statement; revert id s; decide

theorem displayControl (d c b : Bool) : Statement (.displayControl d c b) := by
  unfold Statement; revert d c b; decide

theorem cursorDisplayShift (sc rl : Bool) : Statement (.cursorDisplayShift sc rl) := by
  unfold Statement; revert sc rl; decide

theorem functionSet (dl n f : Bool) : Statement (.functionSet dl n f) := by
  unfold Statement; revert dl n f; decide

theorem setCgramAddr (a : BitVec 6) : Statement (.setCgramAddr a) := by
  unfold Statement; revert a; decide +kernel

theorem setDdramAddr (a : BitVec 7) : Statement (.setDdramAddr a) := by
  unfold Statement; revert a; decide +kernel

theorem statusRead : Statement .statusRead := by unfold Statement; decide

theorem dataWrite (v : Byte) : Statement (.dataWrite v) := by
  unfold Statement; revert v; decide +kernel

theorem dataRead : Statement .dataRead := by unfold Statement; decide

end Sys2Proof.Laws.TableRow
end

