-- ==== Sys2Proof/Machine/Assembler.lean ====
section
/-! DEFINITION. The spec's assembler notation (rules R75, R76): the host events that a line stands for. WAITBUSY is
a loop of the host and stays outside the machine. -/

namespace Sys2Proof.Machine

/-- A mnemonic of rule R75 or a pseudo-instruction of rule R76. -/
inductive Asm where
  | nop
  | clear
  | home
  | entry (id s : Bool)
  | display (d c b : Bool)
  | shift (sc rl : Bool)
  | func (dl n f : Bool)
  | cgaddr (a : Byte)
  | ddaddr (a : Byte)
  | wdata (v : Byte)
  | rdata
  | rstatus
  | w0 (v : Byte)
  | w1 (v : Byte)
  | r0
  | r1
  | reset
  | cmd4 (v : Byte)
  | data4 (v : Byte)
  | status4
  | rdata4
  deriving DecidableEq, Repr

/-- A byte as the two nibble transactions of 4-bit mode (rule R76). -/
def nibbleWrites (rs : Bool) (v : Byte) : List HostEvent :=
  [.write rs (v &&& 0xF0), .write rs ((v <<< 4) &&& 0xF0#8)]

/-- The events of a line (rules R75, R76). -/
def Asm.events : Asm → List HostEvent
  | .nop => [.write false 0x00]
  | .clear => [.write false 0x01]
  | .home => [.write false 0x02]
  | .entry id s => [.write false (encodeByte (.entryModeSet id s))]
  | .display d c b => [.write false (encodeByte (.displayControl d c b))]
  | .shift sc rl => [.write false (encodeByte (.cursorDisplayShift sc rl))]
  | .func dl n f => [.write false (encodeByte (.functionSet dl n f))]
  | .cgaddr a => [.write false (0x40 ||| (a &&& 0x3F))]
  | .ddaddr a => [.write false (0x80 ||| (a &&& 0x7F))]
  | .wdata v => [.write true v]
  | .rdata => [.read true]
  | .rstatus => [.read false]
  | .w0 v => [.write false v]
  | .w1 v => [.write true v]
  | .r0 => [.read false]
  | .r1 => [.read true]
  | .reset => [.reset]
  | .cmd4 v => nibbleWrites false v
  | .data4 v => nibbleWrites true v
  | .status4 => [.read false, .read false]
  | .rdata4 => [.read true, .read true]

/-- A line labelled `@t`: its events are delivered at time `t`, in the order written (rule R75). `first` says
whether timers due at exactly `t` fire before them (decision D21). -/
def Asm.deliveries (t : Time) (first : Bool) (line : Asm) : List Delivery :=
  line.events.map fun e => { time := t, busyFirst := first, blinkFirst := first.toNat, event := e }

end Sys2Proof.Machine
end

