-- ==== Sys2Proof/Tests/Slice0.lean ====
section
/-! SUPPORT. The model's own tests, their expected values taken from the vectors of spec/95_test_vectors.md, and a
witness for the hypotheses of every statement. -/

namespace Sys2Proof.Tests

open Sys2Proof.Machine

/-! ### Helpers -/

/-- S0 of the vectors, at time 2000: idle after reset. -/
def idle : State :=
  { State.reset with ctl := { State.reset.ctl with busy := false, busyDeadline := none }, now := 2000 }

/-- S0 with the controller changed by `f`. -/
def idleWith (f : Controller → Controller) : State := { idle with ctl := f idle.ctl }

/-- S4 of the vectors: idle in 4-bit mode. -/
def idle4 : State := idleWith fun c => { c with dataLen := .four, firstCmd := false }

/-- S0 busy until 2037. -/
def working : State := idleWith fun c => { c with busy := true, busyDeadline := some 2037 }

/-- Whether an outcome is a next state in which `p` holds. -/
def gives (o : Host.Outcome State Fault Refusal) (p : State → Bool) : Bool :=
  match o with
  | .next t => p t
  | .fault _ => false
  | .refused _ => false

/-- The step that delivers `e` now. -/
def after (e : HostEvent) (s : State) (p : State → Bool) : Bool := gives (step (s.pushNow e)) p

/-- The invariant as a computation. -/
def invCheck (s : State) : Bool :=
  decide (s.cfg.check = none) && s.ctl.acValid && decide (s.ctl.dispShift < s.cfg.displayRing) &&
    decide (s.ctl.busy = s.ctl.busyDeadline.isSome) && decide (s.ctl.dataLen = .eight → s.ctl.phase = .high) &&
    Memory.wf s.cfg .ddram s.ctl.ddram && Memory.wf s.cfg .cgram s.ctl.cgram && !Time.before s.now 0 &&
    (match s.ctl.busyDeadline with
      | none => true
      | some t => !Time.before t s.now) &&
    !Time.before s.ctl.blinkDeadline s.now

theorem inv_of_check {s : State} (h : invCheck s = true) : s.Inv := by
  simp only [invCheck, Bool.and_eq_true, decide_eq_true_eq, Bool.not_eq_true', Time.before_false_iff] at h
  obtain ⟨⟨⟨⟨⟨⟨⟨⟨⟨h1, h2⟩, h3⟩, h4⟩, h5⟩, h6⟩, h7⟩, h8⟩, h9⟩, h10⟩ := h
  refine ⟨h1, h2, h3, h4, h5, h6, h7, h8, ?_, h10⟩
  intro t ht
  rw [ht] at h9
  exact (Time.before_false_iff _ _).1 (by simpa using h9)

theorem idle_inv : idle.Inv := inv_of_check (by decide)

/-! ### Well-formedness: one configuration that each check refuses -/

theorem test_default_config_builds : Config.default.check = none := by decide

theorem test_geometry_refused :
    ({ Config.default with physicalLines := 5 } : Config).check = some (.unsupportedGeometry 5) := by decide

theorem test_timing_factor_refused :
    ({ Config.default with timingFactor := 0 } : Config).check = some .timingFactorNotPositive := by decide

theorem test_negative_delay_refused :
    ({ Config.default with tMedium := -1 } : Config).check = some .negativeDelay := by decide

theorem test_blink_period_refused :
    ({ Config.default with tBlink := -1 } : Config).check = some .negativeBlinkPeriod := by decide

/-- Rule R5: a time is non-negative, so a zero period and zero delays build. -/
theorem test_zero_times_build :
    ({ Config.default with tShort := 0, tMedium := 0, tLong := 0, tBlink := 0 } : Config).check = none := by decide

theorem test_small_rams_refused :
    ({ Config.default with ddramSize := 80 } : Config).check = some .ramTooSmall ∧
      ({ Config.default with cgramSize := 32 } : Config).check = some .ramTooSmall := by decide

theorem test_rings_refused :
    ∀ n ∈ [0, 79, 130], ({ Config.default with displayRing := n } : Config).check = some .badDisplayRing := by decide

/-- Rule R5: the sizes are arguments. -/
theorem test_other_sizes_build :
    ({ Config.default with ddramSize := 0x68, cgramSize := 128, displayRing := 32 } : Config).check = none := by decide

/-- Rule R45, on a ring of another size: a shift to the left from 0. -/
theorem test_ring_argument : after (.write false 0x18) { idle with cfg := { Config.default with displayRing := 32 } }
    (fun t => decide (t.ctl.dispShift = 31)) = true := by decide

/-! ### Decoding: words written out from rules R56 and R60 to R68 -/

theorem test_decode_null : decode 0b00_00000000 = .null := by decide

theorem test_decode_clearDisplay : decode 0b00_00000001 = .clearDisplay := by decide

theorem test_decode_returnHome : decode 0b00_00000010 = .returnHome := by decide

theorem test_decode_entryModeSet : decode 0b00_00000101 = .entryModeSet false true := by decide

theorem test_decode_displayControl : decode 0b00_00001001 = .displayControl false false true := by decide

theorem test_decode_cursorDisplayShift : decode 0b00_00010111 = .cursorDisplayShift false true := by decide

theorem test_decode_functionSet : decode 0b00_00101000 = .functionSet false true false := by decide

theorem test_decode_setCgramAddr : decode 0b00_01101000 = .setCgramAddr 0x28 := by decide

theorem test_decode_setDdramAddr : decode 0b00_11100111 = .setDdramAddr 0x67 := by decide

theorem test_decode_statusRead : decode 0b01_11111111 = .statusRead := by decide

theorem test_decode_dataWrite : decode 0b10_01000001 = .dataWrite 0x41 := by decide

theorem test_decode_dataRead : decode 0b11_00000000 = .dataRead := by decide

theorem test_decode_bytes : (decodeBytes [0x41, 0x02, 0xAA]).toOption = some (.dataWrite 0x41, [0xAA]) := by decide

theorem test_decode_bytes_truncated : (decodeBytes [0x41]).toOption = none := by decide

theorem test_decode_bytes_high_bit : (decodeBytes [0x41, 0x04]).toOption = none := by decide

/-! ### The instructions, one or two steps each -/

/-- Vector C35. -/
theorem test_null : after (.write false 0x00) working (fun t =>
    decide (t.ctl = { working.ctl with firstCmd := false })) = true := by decide

/-- Vector L1.3: `first_cmd` and CGRAM are kept. -/
theorem test_clearDisplay : after (.write false 0x01)
    (idleWith fun c =>
      { c with
        bank := .cgram, ac := 0x2A, numLines := .two, direction := .dec, dispShift := 17, shiftOn := true,
        ddram := [(5, 0x41)], cgram := [(8, 0x0E)] }) (fun t =>
    decide (t.ctl =
      { idle.ctl with
        numLines := .two, shiftOn := true, cgram := [(8, 0x0E)], ir := 0x01, busy := true,
        busyDeadline := some 3520 })) = true := by decide

/-- Vectors C32 and C33. -/
theorem test_returnHome : after (.write false 0x03)
    (idleWith fun c =>
      { c with
        bank := .cgram, ac := 0x2A, direction := .dec, dispShift := 12, shiftOn := true, ddram := [(3, 0x41)] })
    (fun t => decide (t.ctl =
      { idle.ctl with
        shiftOn := true, ddram := [(3, 0x41)], ir := 0x03, firstCmd := false, busy := true,
        busyDeadline := some 3520 })) = true := by decide

/-- Vector C29. -/
theorem test_entryModeSet : after (.write false 0x05) idle (fun t =>
    decide (t.ctl.direction = .dec) && t.ctl.shiftOn && decide (t.ctl.busyDeadline = some 2037)) = true := by decide

/-- Vector C27. -/
theorem test_displayControl : after (.write false 0x09)
    (idleWith fun c => { c with displayOn := true, cursorOn := true }) (fun t =>
    !t.ctl.displayOn && !t.ctl.cursorOn && t.ctl.blinkOn) = true := by decide

/-- Vector C20. -/
theorem test_cursorDisplayShift_left : after (.write false 0x10)
    (idleWith fun c => { c with numLines := .two, ac := 0x40 }) (fun t =>
    decide (t.ctl.ac = 0x27) && decide (t.ctl.dispShift = 0)) = true := by decide

/-- Vector C16. -/
theorem test_cursorDisplayShift_display : after (.write false 0x18) (idleWith fun c => { c with ac := 5 }) (fun t =>
    decide (t.ctl.ac = 5) && decide (t.ctl.dispShift = 79)) = true := by decide

/-- Vector L1.7: rejected, with code 3 and the command byte. -/
theorem test_functionSet_rejected : after (.write false 0x38) (idleWith fun c => { c with firstCmd := false })
    (fun t => decide (t.trace = [{ time := 2000, code := .functionSetRejected, info := 0x38 }]) && !t.ctl.busy &&
      decide (t.ctl.numLines = .one)) = true := by decide

/-- Vector F14. -/
theorem test_functionSet_corrects : after (.write false 0x38) (idleWith fun c => { c with ac := 0x30 }) (fun t =>
    decide (t.ctl.numLines = .two) && decide (t.ctl.ac = 0x48)) = true := by decide

/-- Vector C13. -/
theorem test_setCgramAddr : after (.write false 0x68) (idleWith fun c => { c with numLines := .two }) (fun t =>
    decide (t.ctl.bank = .cgram) && decide (t.ctl.ac = 0x28)) = true := by decide

/-- Vector L1.2. -/
theorem test_setDdramAddr_gap : after (.write false 0xB0) (idleWith fun c => { c with numLines := .two }) (fun t =>
    decide (t.ctl.ac = 0x48)) = true := by decide

/-- Vector C10. -/
theorem test_setDdramAddr_bank : after (.write false 0x85) (idleWith fun c => { c with bank := .cgram, ac := 0x10 })
    (fun t => decide (t.ctl.bank = .ddram) && decide (t.ctl.ac = 5)) = true := by decide

/-- Vectors D4 and D8 in one state. -/
theorem test_dataWrite : after (.write true 0x41)
    (idleWith fun c => { c with numLines := .two, direction := .dec, ac := 0x40, shiftOn := true }) (fun t =>
    decide (t.ctl.ddram = [(0x40, 0x41)]) && decide (t.ctl.ac = 0x27) && decide (t.ctl.dispShift = 79) &&
      decide (t.ctl.dr = 0x41) && decide (t.ctl.busyDeadline = some 2041)) = true := by decide

/-- Vector D10. -/
theorem test_dataWrite_dropped : after (.write true 0x41) working (fun t =>
    decide (t.trace = [{ time := 2000, code := .dataWriteDropped, info := 0x41 }]) &&
      decide (t.ctl = { working.ctl with lastRs := true })) = true := by decide

/-- Vector D13. -/
theorem test_dataRead : after (.read true)
    (idleWith fun c => { c with numLines := .two, direction := .dec, ac := 0x27, ddram := [(0x27, 0x58)] }) (fun t =>
    decide (t.reply = some (.byte 0x58)) && decide (t.ctl.ac = 0x26) &&
      decide (t.ctl.busyDeadline = some 2041)) = true := by decide

/-- Vector I10, the second nibble. -/
theorem test_dataRead_second_nibble : after (.read true)
    { idle4 with ctl := { idle4.ctl with ddram := [(0, 0x48)], phase := .low, lastRs := true, lastRw := true } }
    (fun t => decide (t.reply = some (.byte 0x80)) && decide (t.ctl.ac = 1) && t.ctl.busy) = true := by decide

/-- Vector S1. -/
theorem test_statusRead : after (.read false) { working with ctl := { working.ctl with ac := 0x45 } } (fun t =>
    decide (t.reply = some (.byte 0xC5))) = true := by decide

/-- Vector I8, the second nibble. -/
theorem test_statusRead_second_nibble : after (.read false)
    { idle4 with
      ctl := { idle4.ctl with
        ac := 0x45, busy := true, busyDeadline := some 2037, phase := .low, lastRw := true } } (fun t => decide (t.reply = some (.byte 0x50)) && decide (t.ctl.phase = .high)) = true := by
  decide

/-! ### The interface, the timers, the renderer -/

/-- Vector I2, the second nibble: DB3:0 are ignored. -/
theorem test_second_nibble_completes : after (.write false 0xCF)
    { idle4 with ctl := { idle4.ctl with phase := .low } } (fun t =>
    decide (t.ctl.ir = 0x0C) && t.ctl.displayOn && !t.ctl.cursorOn) = true := by decide

/-- Vector I4: a change of level abandons a held nibble. -/
theorem test_level_change_restarts_pairing : after (.write true 0x40)
    { idle4 with ctl := { idle4.ctl with phase := .low, ir := 0x80 } } (fun t =>
    decide (t.ctl.ir = 0x80) && decide (t.ctl.dr = 0x40) && decide (t.ctl.phase = .low)) = true := by decide

/-- Vector T3: the write takes `db_in` at the falling edge. -/
theorem test_latch_falls : after (.latch false)
    (idleWith fun c => { c with rsIn := true, dbIn := 0x42, eLevel := true }) (fun t =>
    decide (t.ctl.ddram = [(0, 0x42)]) && !t.ctl.eLevel) = true := by decide

/-- Vector T4. -/
theorem test_latch_rises : after (.latch true)
    { working with ctl := { working.ctl with rwIn := true } } (fun t =>
    decide (t.ctl.dbOut = 0x80) && decide (t.reply = none)) = true := by decide

/-- Vector X4. -/
theorem test_reset : after .reset { idle4 with ctl := { idle4.ctl with phase := .low, cgram := [(8, 0x0E)] } }
    (fun t => decide (t.ctl = Controller.atReset Config.default 2000)) = true := by decide

/-- Vector B1. -/
theorem test_reset_deadlines : State.reset.ctl.busyDeadline = some 1520 ∧ State.reset.ctl.blinkDeadline = 409000 := by
  decide

/-- Vector B3. -/
theorem test_timing_factor : after (.write false 0x01)
    { idle with cfg := { Config.default with timingFactor := mkRat 1 2 } } (fun t =>
    decide (t.ctl.busyDeadline = some 2760)) = true := by decide

/-- Vector R16: the underline at cell (1,9). -/
theorem test_render_cursor : renderRow Config.default
    { idle.ctl with numLines := .two, dispShift := 79, ac := 0x48, cursorOn := true } 1 9 7 = 0x1F := by decide

/-- Vector R7: code 0x0D reads CGRAM from 40. -/
theorem test_render_cgram : renderRow Config.default
    { idle.ctl with ac := 1, ddram := [(0, 0x0D)], cgram := [(40, 0x11)] } 0 0 0 = 0x11 := by decide

/-- Rules R122, R123: with the cursor off and the blink in its "on" half, the last row is the glyph's own. -/
theorem test_render_last_row : renderRow Config.default
    { idle.ctl with ddram := [(0, 0x0D)], cgram := [(47, 0x11)], blinkOn := true, blinkPhase := true } 0 0 7 = 0x11 := by
  decide

/-- Vector R2: FONT from 0x410. -/
theorem test_render_font : renderRow Config.default { idle.ctl with ac := 1, ddram := [(0, 0x41)] } 0 0 7 =
    Config.default.font 0x417 := rfl

/-- Rule R76: DATA4 is two write transactions, the high nibble first. -/
theorem test_asm_data4 : (Asm.data4 0x48).events = [.write true 0x40, .write true 0x80] := by decide

/-! ### What the host asks: a placed word runs first after reset, in either width -/

theorem test_placed_word_runs : gives (step (State.reset.withFetchWord 16 0x00C)) (fun t => t.ctl.displayOn) = true := by
  decide

theorem test_placed_word_runs_in_4_bit_mode : gives (step (idle4.withFetchWord 16 0x248)) (fun t =>
    decide (t.ctl.ddram = [(0, 0x48)])) = true := by decide

theorem test_decodeTableWord : decodeTableWord 16 0x241 = some (.dataWrite 0x41) := by decide

/-! ### Witnesses: a state and operands that meet the hypotheses of each statement -/

/-- Each clause at its boundary values. -/
theorem witness_OneLineCorrectionWraps :
    correct .ddram .one 0x50 = 0 ∧ correct .ddram .one (-1) = 0x4F ∧ correct .ddram .one 0 = 0 ∧
      correct .ddram .one 0x4F = 0x4F := by decide

/-- Each clause at its boundary values. -/
theorem witness_TwoLineAndCgramCorrection :
    correct .ddram .two 0 = 0 ∧ correct .ddram .two 0x27 = 0x27 ∧ correct .ddram .two 0x28 = 0x40 ∧
      correct .ddram .two 0x3F = 0x57 ∧ correct .ddram .two 0x40 = 0x40 ∧ correct .ddram .two 0x67 = 0x67 ∧
      correct .ddram .two 0x68 = 0 ∧ correct .ddram .two (-1) = 0x67 ∧ correct .cgram .two 64 = 0 ∧
      correct .cgram .two (-1) = 63 := by decide

/-- The ends of the ring in each mode. -/
theorem witness_UpdateACFollowsTheRing :
    addressValid .ddram .one 0x4F = true ∧ addressValid .ddram .two 0x27 = true ∧ addressValid .ddram .two 0x40 = true ∧
      addressValid .ddram .two 0x67 = true ∧ addressValid .cgram .one 0x3F = true := by decide

theorem witness_UpdateACIsUndoneByTheOppositeMove : idle.ctl.acValid = true := by decide

theorem witness_ShiftDisplayMovesTheEightyPositionRing :
    idle.ctl.dispShift = 0 ∧ 0 < idle.cfg.displayRing ∧ idle.ctl.shiftDisplay 80 .dec = { idle.ctl with dispShift := 79 } := by
  decide

theorem witness_ArmBusyReplacesThePendingDeadline : (idle.armBusy 37).upcoming = .timer .busy 2037 := by decide

theorem witness_CursorDisplayShiftMovesOneOfTwo : idle.Inv := idle_inv

/-- The first command; a command that changes the width; one that changes neither the lines nor the height. -/
theorem witness_FunctionSetAcceptedWritesTheModes :
    idle.ctl.firstCmd = true ∧ DataLen.eight ≠ idle4.ctl.dataLen ∧ LineCount.one = idle4.ctl.numLines ∧
      GlyphHeight.eight = idle4.ctl.glyphH := by decide

/-- Another line count, and another height. -/
theorem witness_FunctionSetRejectedOnlyReports :
    idle4.ctl.firstCmd = false ∧ DataLen.four = idle4.ctl.dataLen ∧ LineCount.two ≠ idle4.ctl.numLines ∧
      GlyphHeight.ten ≠ idle4.ctl.glyphH := by decide

theorem witness_SetCgramAddrSelectsTheBank :
    (idleWith fun c => { c with bank := .cgram }).Inv ∧ idle.ctl.busy = false ∧
      gives (exec (.dataWrite 0x41) (idleWith fun c => { c with bank := .cgram })) (fun t =>
        decide (t.ctl.bank = .cgram) && decide (t.ctl.ddram = [])) = true :=
  ⟨inv_of_check (by decide), by decide, by decide⟩

theorem witness_CommandsIgnoreAndSupersedeBusy :
    (0x38 : Byte) ≠ 0x00 ∧ ∀ x y z, idle.ctl.functionSetRejected x y z = false := by decide

theorem witness_DataWriteStoresAtTheAddressCounter : idle.Inv ∧ idle.ctl.busy = false := ⟨idle_inv, by decide⟩

theorem witness_BusyDataOperationsAreDropped : working.ctl.busy = true := by decide

theorem witness_DataReadReturnsTheCell : idle.Inv ∧ idle.ctl.busy = false ∧ idle.ctl.dataLen = .eight :=
  ⟨idle_inv, by decide⟩

theorem witness_DataReadNibbles :
    idle4.Inv ∧ idle4.ctl.busy = false ∧ idle4.ctl.dataLen = .four ∧ idle4.ctl.phase = .high ∧
      ({ idle4 with ctl := { idle4.ctl with phase := .low } } : State).Inv :=
  ⟨inv_of_check (by decide), by decide, by decide, by decide, inv_of_check (by decide)⟩

theorem witness_StatusReadReturnsBusyAndAddress : idle.ctl.dataLen = .eight := by decide

/-- Each phase. -/
theorem witness_StatusReadNibbles :
    idle4.ctl.dataLen = .four ∧ idle4.ctl.phase = .high ∧
      ({ idle4.ctl with phase := .low } : Controller).phase = .low := by decide

theorem witness_DataReadAfterDataWrite : idle.Inv ∧ idle.ctl.busy = false ∧ idle.ctl.dataLen = .eight :=
  ⟨idle_inv, by decide⟩

theorem witness_StepRunsTheDecodedWordInEightBitMode :
    idle.cfg.check = none ∧ idle.ctl.dataLen = .eight ∧
      (idle.pushNow (eventOfWord 0x241)).upcoming = .host ⟨2000, false, 0, eventOfWord 0x241⟩ [] 2000 := by decide

/-- Both clauses, on each channel. -/
theorem witness_StepPairsWriteNibbles :
    (idle4.pushNow (.write true 0x40)).upcoming = .host ⟨2000, false, 0, .write true 0x40⟩ [] 2000 ∧
      idle4.ctl.dataLen = .four ∧ idle4.ctl.busy = false ∧ idle4.ctl.phase = .high ∧
      ({ idle4 with ctl := { idle4.ctl with phase := .low } }.pushNow (.write false 0x40)).upcoming =
        .host ⟨2000, false, 0, .write false 0x40⟩ [] 2000 ∧
      false = idle4.ctl.lastRs ∧ idle4.ctl.lastRw = false := by decide

/-- Both channels, with the levels as they were and changed, and each phase. -/
theorem witness_StepRunsReadTransactionsInFourBitMode :
    (∀ rs, (idle4.pushNow (.read rs)).upcoming = .host ⟨2000, false, 0, .read rs⟩ [] 2000) ∧
      idle4.cfg.check = none ∧ idle4.ctl.dataLen = .four ∧ idle4.ctl.busy = false ∧
      true ≠ idle4.ctl.lastRs ∧ idle4.ctl.lastRw = false ∧ idle4.ctl.phase = .high ∧
      (({ idle4 with ctl := { idle4.ctl with phase := .low, lastRw := true } }).pushNow (.read false)).upcoming =
        .host ⟨2000, false, 0, .read false⟩ [] 2000 := by decide

theorem witness_PlacedWordIsRunByTheNextStep : idle.Inv ∧ idle4.Inv ∧ idle4.ctl.busy = false :=
  ⟨idle_inv, inv_of_check (by decide), by decide⟩

theorem witness_BusyGateDropsTheTransaction : working.ctl.busy = true := by decide

/-- Each channel, and each way for the pair to start a byte: phase HIGH, another channel, a read before. A Function Set
that changes neither the lines nor the height, and one that is the first command. -/
theorem witness_NibblePairEqualsByteWrite :
    idle4.ctl.dataLen = .four ∧ idle4.ctl.busy = false ∧ idle4.ctl.phase = .high ∧
      decodeCommand 0x0E = .displayControl true true false ∧
      ({ idle4.ctl with phase := .low } : Controller).lastRs ≠ true ∧
      ({ idle4.ctl with phase := .low, lastRw := true } : Controller).lastRw = true ∧
      decodeCommand 0x30 = .functionSet true false false ∧ idle4.ctl.numLines = .one ∧ idle4.ctl.glyphH = .eight ∧
      ({ idle4.ctl with firstCmd := true } : Controller).firstCmd = true ∧
      gives (transact true false 0x40 idle4) (fun t => gives (transact true false 0x80 t) (fun u =>
        decide (u.ctl.ddram = [(0, 0x48)]))) = true := by decide

/-- Vector I11 (accepted as nibbles) and the byte of P2 at 2201 (rejected as nibbles), with each way to start. -/
theorem witness_FunctionSetBreaksTheNibbleLaw :
    idle4.ctl.dataLen = .four ∧ idle4.ctl.phase = .high ∧ idle4.ctl.firstCmd = false ∧ LineCount.two ≠ idle4.ctl.numLines ∧
      decodeCommand 0x38 = .functionSet true true false ∧ decodeCommand 0x28 = .functionSet false true false ∧
      ({ idle4.ctl with phase := .low, lastRs := true } : Controller).lastRs = true ∧
      ({ idle4.ctl with phase := .low, lastRw := true } : Controller).lastRw = true := by decide

theorem witness_ThreeLineCallsEqualBusTransactions : idle.ctl.eLevel = false := by decide

theorem witness_BusyExpiryClearsBusyOnly : working.cfg.check = none ∧ working.upcoming = .timer .busy 2037 := by decide

theorem witness_IsBusyReturnsTheStatusBit : working.ctl.dataLen = .eight := by decide

theorem witness_BlinkFiringTogglesThePhase : idle.cfg.check = none ∧ idle.upcoming = .timer .blink 409000 := by decide

theorem witness_HostEventsComeAfterEarlierDeadlines :
    (working.pushNow .render).upcoming = .host ⟨2000, false, 0, .render⟩ [] 2000 := by decide

/-- Both orders for each timer, and all three events at one time. -/
theorem witness_SimultaneousOrderIsTheSchedulersChoice (first : Bool) :
    ({ working with inbox := [⟨2037, first, 0, .isBusy⟩] } : State).Inv ∧
      working.ctl.busyDeadline = some 2037 ∧ (2037 : Time) < working.ctl.blinkDeadline ∧
      (∀ n ∈ [0, 1, 2], ({ working with
          ctl := { working.ctl with blinkDeadline := 2037 },
          inbox := [⟨2037, false, n, .isBusy⟩] } : State).Inv) ∧
      ({ working.ctl with blinkDeadline := 2037 } : Controller).busyDeadline = some 2037 :=
  ⟨inv_of_check (by revert first; decide), by decide, (Time.before_iff _ _).1 (by decide),
    fun n hn => inv_of_check (by revert n; decide), by decide⟩

/-- Rule R134 with T_BLINK = 0: one blink firing at 2000, then the event at 2000, which sees the phase toggled. -/
theorem test_one_zero_period_firing_then_the_event :
    gives (step { idle with
      cfg := { Config.default with tBlink := 0 },
      ctl := { idle.ctl with blinkDeadline := 2000 },
      inbox := [⟨2000, false, 1, .isBusy⟩] }) (fun t =>
        t.ctl.blinkPhase && decide (t.ctl.blinkDeadline = 2000) && decide (t.inbox = [⟨2000, false, 0, .isBusy⟩]) &&
          gives (step t) (fun u => decide (u.reply = some (.flag false)) && u.ctl.blinkPhase)) = true := by decide

theorem witness_BlinkPhaseAlternatesEveryPeriod :
    idle.Inv ∧ idle.InBlinkHalf 0 0 ∧ idle.nextIsReset = false ∧ gives (step idle) (fun t => t.ctl.blinkPhase) = true ∧
      (idle.pushNow .reset).nextIsReset = true ∧ after .reset idle (fun t => decide (t.now = 2000)) = true := by
  refine ⟨idle_inv, ⟨by decide, ?_, ?_, (Time.before_false_iff _ _).1 (by decide)⟩, by decide, by decide, by decide,
    by decide⟩
  · rw [show idle.ctl.blinkDeadline = 409000 by decide, show idle.cfg.tBlink = 409000 by decide]; norm_num
  · rw [show idle.now = 2000 by decide]; norm_num

/-- Both clauses, at the ends of the range and with a supplied strategy. -/
theorem witness_UnsupportedGeometryIsRefused :
    (∀ n ∈ [0, 5], ({ Config.default with physicalLines := n } : Config).check = some (.unsupportedGeometry n)) ∧
      (∀ n ∈ [1, 4], ({ Config.default with physicalLines := n } : Config).check = none) ∧
      ({ Config.default with physicalLines := 5, placementSupplied := true } : Config).check = none ∧
      (0 : Rat) < Config.default.timingFactor ∧ 0 ≤ Config.default.tShort ∧ 0 ≤ Config.default.tMedium ∧
      0 ≤ Config.default.tLong ∧ 0 ≤ Config.default.tBlink ∧ 0x68 ≤ Config.default.ddramSize ∧
      0x40 ≤ Config.default.cgramSize ∧ 0 < Config.default.displayRing ∧ Config.default.displayRing % 2 = 0 ∧
      Config.default.displayRing ≤ Config.default.ddramSize ∧
      0x40 + Config.default.displayRing / 2 ≤ Config.default.ddramSize :=
  have h : Config.default.Buildable := Config.check_none_iff.1 (by decide)
  ⟨by decide, by decide, by decide, h.timingFactor_pos, h.tShort_nonneg, h.tMedium_nonneg, h.tLong_nonneg,
    h.tBlink_nonneg, by decide⟩

/-- Two controllers that differ, but only in what the renderer does not read. -/
theorem witness_RenderReadsOnlyWhatItNames :
    idle.ctl ≠ idle4.ctl ∧ idle.ctl.displayOn = idle4.ctl.displayOn ∧ idle.ctl.numLines = idle4.ctl.numLines ∧
      idle.ctl.glyphH = idle4.ctl.glyphH ∧ idle.ctl.dispShift = idle4.ctl.dispShift ∧
      idle.ctl.ddram = idle4.ctl.ddram ∧ idle.ctl.cgram = idle4.ctl.cgram ∧ idle.ctl.ac = idle4.ctl.ac ∧
      idle.ctl.cursorOn = idle4.ctl.cursorOn ∧ idle.ctl.blinkOn = idle4.ctl.blinkOn ∧
      idle.ctl.blinkPhase = idle4.ctl.blinkPhase := by decide

/-- Two lines of 40 cells, the last cell of the second line at AC with both marks enabled. -/
def marked : Controller :=
  { idle.ctl with displayOn := true, numLines := .two, ac := 0x67, cursorOn := true, blinkOn := true }

/-- Each way not to be marked: another position than AC (cell (1,38)), or no mark enabled (cell (1,39)). -/
theorem witness_RenderShowsTheGlyphOfTheCode :
    (marked.displayOn = true ∧ 1 < 2 ∧ 38 < 40 ∧ 7 < 8 ∧ marked.glyphH = .eight ∧
      1 * 0x40 + (38 + marked.dispShift) % 40 ≠ marked.ac.toNat) ∧
    ({ marked with cursorOn := false, blinkOn := false } : Controller).cursorOn = false := by decide

/-- The cursor cell, with each mark enabled, in each half of the blink. -/
theorem witness_RenderMarksTheCursorCell :
    marked.displayOn = true ∧ 1 < 2 ∧ 39 < 40 ∧ 1 * 0x40 + (39 + marked.dispShift) % 40 = marked.ac.toNat ∧
      marked.blinkOn = true ∧ marked.blinkPhase = false ∧ marked.cursorOn = true ∧
      ({ marked with blinkPhase := true } : Controller).blinkPhase = true ∧
      ({ marked with blinkPhase := true, cursorOn := false } : Controller).cursorOn = false := by decide

theorem witness_EveryValidAddressIsShownExactlyOnce : addressValid .ddram .two 0x67 = true := by decide

theorem witness_WrittenCodeShowsAtThePreIncrementPosition :
    (idleWith fun c => { c with displayOn := true }).Inv ∧ idle.ctl.busy = false ∧ idle.ctl.bank = .ddram ∧
      0x10 ≤ (0x41 : Byte).toNat ∧
      gives (exec (.dataWrite 0x41) (idleWith fun c => { c with displayOn := true })) (fun t =>
        decide (0 < t.ctl.numLines.toNat) && decide (0 < t.ctl.numLines.cells t.cfg.displayRing) &&
          decide (t.ctl.cellAddress t.cfg.displayRing 0 0 = idle.ctl.ac.toNat) && decide (7 < t.ctl.glyphH.toNat)) = true :=
  ⟨inv_of_check (by decide), by decide, by decide, by decide, by decide⟩

theorem witness_EveryStepKeepsTheInvariant : idle.Inv ∧ gives (step idle) (fun _ => true) = true :=
  ⟨idle_inv, by decide⟩

theorem witness_EveryStepKeepsTheFirstCommandModes :
    idle.FirstCommandModes ∧ idle.ctl.firstCmd = true ∧ gives (step idle) (fun _ => true) = true :=
  ⟨fun _ => by decide, by decide, by decide⟩

/-- A read, a query of the bus, of busy and of the picture come up. -/
theorem witness_NoEventFails :
    idle.Inv ∧ ∀ e ∈ [HostEvent.read true, .getDataBus, .isBusy, .render],
      (idle.pushNow e).upcoming = .host ⟨2000, false, 0, e⟩ [] 2000 :=
  ⟨idle_inv, by decide⟩

theorem witness_OnlyNamedEventsChangeDdram :
    (idle.pushNow (.write true 0x41)).Inv ∧
      after (.write true 0x41) idle (fun t => decide (t.ctl.memRead .ddram 0 ≠ idle.ctl.memRead .ddram 0)) = true :=
  ⟨inv_of_check (by decide), by decide⟩

theorem witness_OnlyNamedEventsChangeCgram :
    ((idleWith fun c => { c with bank := .cgram }).pushNow (.write true 0x41)).Inv ∧
      after (.write true 0x41) (idleWith fun c => { c with bank := .cgram }) (fun t =>
        decide (t.ctl.memRead .cgram 0 ≠ idle.ctl.memRead .cgram 0)) = true :=
  ⟨inv_of_check (by decide), by decide⟩

/-- A change of each element. -/
theorem witness_OnlyNamedCommandsChangeTheModes :
    (idle.pushNow (.write false 0x38)).nextIsReset = false ∧
      after (.write false 0x38) idle (fun t => decide (t.ctl.numLines ≠ idle.ctl.numLines)) = true ∧
      after (.write false 0x0C) idle (fun t => decide (t.ctl.displayOn ≠ idle.ctl.displayOn)) = true ∧
      after (.write false 0x05) idle (fun t => decide (t.ctl.shiftOn ≠ idle.ctl.shiftOn) &&
        decide (t.ctl.direction ≠ idle.ctl.direction)) = true ∧
      after (.write false 0x40) idle (fun t => decide (t.ctl.bank ≠ idle.ctl.bank)) = true ∧
      after (.write false 0x1C) idle (fun t => decide (t.ctl.dispShift ≠ idle.ctl.dispShift)) = true := by decide

/-- A command, a data operation, and a reset that makes the flag true. -/
theorem witness_FirstCommandFlagBookkeeping :
    gives (exec (decodeCommand 0x02) idle) (fun _ => true) = true ∧
      gives (exec .statusRead idle) (fun _ => true) = true ∧
      idle4.ctl.firstCmd = false ∧ after .reset idle4 (fun t => t.ctl.firstCmd) = true := by decide

theorem witness_ParametersStayAndTheTraceGrows :
    after (.write true 0x41) working (fun t => decide (t.trace.length = 1)) = true := by decide

end Sys2Proof.Tests
end

section
/-! PROOFS. The parameters and the diagnostic trace (rules R5, R128): every operation, transaction, host event and
timer firing keeps the parameters and appends at most one entry. A transaction that completes an operation has raised
nothing before the operation runs, so that the two together still append at most one. -/

namespace Sys2Proof.Machine

/-- `t` has the parameters of `s`, and the trace of `s` with at most one entry appended. -/
def State.LogsAtMostOne (s t : State) : Prop :=
  t.cfg = s.cfg ∧ ∃ new : List Diag, t.trace = s.trace ++ new ∧ new.length ≤ 1

theorem State.LogsAtMostOne.of_eq {s t : State} (hc : t.cfg = s.cfg) (ht : t.trace = s.trace) : s.LogsAtMostOne t :=
  ⟨hc, [], by simp [ht], by simp⟩

/-- The start counts only by its parameters and its trace. -/
theorem State.LogsAtMostOne.of_start_eq {s u t : State} (h : u.LogsAtMostOne t) (hc : u.cfg = s.cfg)
    (ht : u.trace = s.trace) : s.LogsAtMostOne t := by
  unfold State.LogsAtMostOne at *
  rwa [hc, ht] at h

/-- The end counts only by its parameters and its trace. -/
theorem State.LogsAtMostOne.of_end_eq {s u t : State} (h : s.LogsAtMostOne u) (hc : t.cfg = u.cfg)
    (ht : t.trace = u.trace) : s.LogsAtMostOne t := by
  unfold State.LogsAtMostOne at *
  rwa [hc, ht]

theorem raiseDiag_logsAtMostOne (s : State) (k : DiagCode) (n : Nat) : s.LogsAtMostOne (s.raiseDiag k n) :=
  ⟨raiseDiag_cfg s k n, _, raiseDiag_trace s k n, by simp⟩

theorem dropWrite_logsAtMostOne (s : State) (db : Byte) : s.LogsAtMostOne (s.dropWrite db) :=
  raiseDiag_logsAtMostOne s _ _

theorem dropRead_logsAtMostOne (s : State) : s.LogsAtMostOne s.dropRead :=
  (raiseDiag_logsAtMostOne s _ _).of_end_eq (answer_cfg _ _) (answer_trace _ _)

theorem dropData_logsAtMostOne (s : State) (rw : Bool) (db : Byte) : s.LogsAtMostOne (s.dropData rw db) := by
  cases rw with
  | false => exact dropWrite_logsAtMostOne s db
  | true => exact dropRead_logsAtMostOne s

theorem loadData_logsAtMostOne (s : State) (v : Byte) : s.LogsAtMostOne (s.loadData v) :=
  loadData_elim (fun _ => .of_eq rfl rfl) (fun _ _ => .of_eq rfl rfl) (fun _ _ => .of_eq rfl rfl)

/-- Only a rejected FUNCTION_SET and a data operation that the busy gate drops append an entry (rule R128). -/
theorem exec_logsAtMostOne {i : Instr} {s t : State} (h : exec i s = .next t) : s.LogsAtMostOne t := by
  refine exec_next_elim (motive := fun _ t => s.LogsAtMostOne t)
    (rejected := fun _ _ _ _ => raiseDiag_logsAtMostOne s _ _)
    (dropWrite := fun v _ => dropWrite_logsAtMostOne s v)
    (dropRead := fun _ => dropRead_logsAtMostOne s)
    (read := fun _ _ => loadData_logsAtMostOne s _)
    ?null ?clear ?home ?entry ?display ?shift ?move ?accepted ?cgaddr ?ddaddr ?status8 ?statusHigh ?statusLow ?write h
  all_goals intros; exact .of_eq rfl rfl

/-- A transaction that completes an operation has raised no diagnostic: the busy gate's drop completes none. -/
theorem multiplex_completes_cfg_trace {rs rw : Bool} {db : Byte} {s u : State} {i : Instr}
    (h : multiplex rs rw db s = .completes i u) : u.cfg = s.cfg ∧ u.trace = s.trace := by
  refine multiplex_elim (motive := fun T => T = .completes i u → u.cfg = s.cfg ∧ u.trace = s.trace)
    ?dropped ?command8 ?write8 ?statusRead ?dataRead ?commandHigh ?commandLow ?writeHigh ?writeLow h
  case dropped | commandHigh | writeHigh => intros; contradiction
  all_goals
    intros
    rename_i hu
    cases hu
    exact ⟨rfl, rfl⟩

/-- A transaction that completes no operation drops its byte, with one entry, or holds a nibble, with none. -/
theorem multiplex_logsAtMostOne (rs rw : Bool) (db : Byte) (s : State) :
    s.LogsAtMostOne (multiplex rs rw db s).state := by
  refine multiplex_elim (motive := fun T => s.LogsAtMostOne T.state)
    (dropped := fun _ _ => (dropData_logsAtMostOne _ rw db).of_start_eq rfl rfl)
    ?command8 ?write8 ?statusRead ?dataRead ?commandHigh ?commandLow ?writeHigh ?writeLow
  all_goals intros; exact .of_eq rfl rfl

theorem transact_logsAtMostOne {rs rw : Bool} {db : Byte} {s t : State} (h : transact rs rw db s = .next t) :
    s.LogsAtMostOne t := by
  rcases transact_next h with ⟨i, u, hm, hx⟩ | hm
  · obtain ⟨hc, ht⟩ := multiplex_completes_cfg_trace hm
    exact (exec_logsAtMostOne hx).of_start_eq hc ht
  · simpa only [hm, Transaction.state] using multiplex_logsAtMostOne rs rw db s

theorem latch_logsAtMostOne {e : Bool} {s t : State} (h : latch e s = .next t) : s.LogsAtMostOne t :=
  latch_elim h (.of_eq rfl rfl) (.of_eq rfl rfl)
    (fun _ _ _ _ hu => (transact_logsAtMostOne hu).of_end_eq rfl rfl)
    (fun _ _ _ _ hu => (transact_logsAtMostOne hu).of_end_eq rfl rfl)

/-- A reset event keeps the trace: only the controller starts afresh (rule R145). -/
theorem deliver_logsAtMostOne {e : HostEvent} {s t : State} (h : deliver e s = .next t) : s.LogsAtMostOne t := by
  cases e with
  | write | read => exact transact_logsAtMostOne h
  | latch => exact latch_logsAtMostOne h
  | setRegisterSelect | setReadWrite | setDataBus | getDataBus | reset | isBusy | render =>
    cases h
    exact .of_eq rfl rfl

theorem fire_logsAtMostOne (k : Timer) (s : State) : s.LogsAtMostOne (fire k s) := by
  cases k <;> exact .of_eq rfl rfl

theorem step_logsAtMostOne {s t : State} (h : step s = .next t) : s.LogsAtMostOne t := by
  obtain ⟨_, ⟨k, u, _, rfl⟩ | ⟨d, rest, u, _, hd⟩⟩ := step_next h
  · exact (fire_logsAtMostOne k _).of_start_eq rfl rfl
  · exact (deliver_logsAtMostOne hd).of_start_eq rfl rfl

/-- Settles O59: a step fires a timer, which raises nothing, or delivers a host event, which runs at most one
transaction. -/
theorem parametersStayAndTheTraceGrows : Obligations.ParametersStayAndTheTraceGrows := by
  intro s t h
  exact step_logsAtMostOne h

end Sys2Proof.Machine
end

section
/-! PROOFS. The invariant of the machine (rules R17, R31, R38, R141). It falls into the configuration check, the
well-formedness of the controller's untimed elements, and the order of now and the two deadlines; each operation is a
change of the untimed elements, an arming of busy, or both. -/

namespace Sys2Proof.Machine

/-! ### The untimed elements -/

/-- The part of the invariant that speaks of the controller alone, and not of time. -/
structure Controller.WellFormed (cfg : Config) (c : Controller) : Prop where
  ac_valid : c.acValid = true
  shift_lt : c.dispShift < cfg.displayRing
  phase_high : c.dataLen = .eight → c.phase = .high
  ddram_wf : Memory.wf cfg .ddram c.ddram = true
  cgram_wf : Memory.wf cfg .cgram c.cgram = true

namespace Controller.WellFormed

variable {cfg : Config} {c : Controller} (h : c.WellFormed cfg)
include h

theorem ring_pos : 0 < cfg.displayRing := Nat.zero_lt_of_lt h.shift_lt

theorem setPhase {p : Phase} (hp : c.dataLen = .eight → p = .high) :
    Controller.WellFormed cfg { c with phase := p } :=
  { h with phase_high := hp }

theorem setAC (a : Int) : (c.setAC a).WellFormed cfg :=
  { h with ac_valid := c.setAC_acValid a }

theorem updateAC (d : Direction) : (c.updateAC d).WellFormed cfg :=
  h.setAC _

theorem shiftDisplay (d : Direction) : (c.shiftDisplay cfg.displayRing d).WellFormed cfg :=
  { h with shift_lt := c.shiftDisplay_lt h.ring_pos d }

theorem home : c.home.WellFormed cfg :=
  { h with ac_valid := by cases hn : c.numLines <;> simp [Controller.acValid, addressValid, hn], shift_lt := h.ring_pos }

theorem clear : Controller.WellFormed cfg { c.home with ddram := [] } :=
  { h.home with ddram_wf := rfl }

/-- A Function Set may select the 8-bit width, in which the phase must be HIGH (rule R38). -/
theorem setFunction (hp : c.phase = .high) (dl n f : Bool) : (c.setFunction dl n f).WellFormed cfg :=
  { h with ac_valid := Controller.setAC_acValid _ _, phase_high := fun _ => hp }

theorem setCgramAddr (a : BitVec 6) :
    Controller.WellFormed cfg { c with bank := .cgram, ac := a.zeroExtend 7 } :=
  { h with ac_valid := by simp [Controller.acValid, addressValid]; omega }

theorem setDdramAddr (a : Int) : (Controller.setAC { c with bank := .ddram } a).WellFormed cfg :=
  { h with ac_valid := Controller.setAC_acValid _ a }

/-- The write goes to a cell of the bank, so its RAM stays canonical; the address and the shift move on their rings. -/
theorem storeData (hc : c.cellExists cfg = true) (v : Byte) : (c.storeData cfg.displayRing v).WellFormed cfg := by
  have hwf := Controller.wf_memWrite (v := v) h.ddram_wf h.cgram_wf (of_decide_eq_true hc)
  rw [Controller.storeData_eq]
  refine { h with
    ac_valid := c.updateAC_acValid c.direction, shift_lt := ?_, ddram_wf := hwf.1, cgram_wf := hwf.2 }
  dsimp only
  split
  · exact (h.shiftDisplay c.direction).shift_lt
  · exact h.shift_lt

end Controller.WellFormed

/-! ### The invariant under each change of the state -/

/-- The elements that the timers live in (rules R31, R34). -/
def Controller.timers (c : Controller) : Bool × Option Time × Time := (c.busy, c.busyDeadline, c.blinkDeadline)

theorem Controller.storeData_timers (c : Controller) (n : Nat) (v : Byte) : (c.storeData n v).timers = c.timers := by
  rw [Controller.storeData_eq]; rfl

namespace State.Inv

variable {s : State} (hi : s.Inv)
include hi

theorem ctl_wf : s.ctl.WellFormed s.cfg :=
  ⟨hi.ac_valid, hi.shift_lt, hi.phase_high, hi.ddram_wf, hi.cgram_wf⟩

theorem onCtl {g : Controller → Controller} (hg : (g s.ctl).WellFormed s.cfg)
    (ht : (g s.ctl).timers = s.ctl.timers) : (s.onCtl g).Inv := by
  obtain ⟨hb, hd, hk⟩ : (g s.ctl).busy = s.ctl.busy ∧ (g s.ctl).busyDeadline = s.ctl.busyDeadline ∧
      (g s.ctl).blinkDeadline = s.ctl.blinkDeadline := by simpa [Controller.timers] using ht
  exact
    { hi with
      ac_valid := hg.ac_valid, shift_lt := hg.shift_lt, phase_high := hg.phase_high
      ddram_wf := hg.ddram_wf, cgram_wf := hg.cgram_wf
      busy_iff := by simpa [hb, hd] using hi.busy_iff
      busy_ahead := by simpa [hd] using hi.busy_ahead
      blink_ahead := by simpa [hk] using hi.blink_ahead }

theorem armBusy {b : Time} (hb : 0 ≤ b) : (s.armBusy b).Inv :=
  { hi with
    busy_iff := rfl
    busy_ahead := fun t ht => by
      cases ht
      exact now_le_deadline hi.cfg_ok hb }

theorem consumeFirst : s.consumeFirst.Inv := { hi with }

theorem raiseDiag (k : DiagCode) (n : Nat) : (s.raiseDiag k n).Inv := { hi with }

theorem answer (r : Reply) : (s.answer r).Inv := { hi with }

theorem finishRead : s.finishRead.Inv :=
  (hi.onCtl (hi.ctl_wf.updateAC _) rfl).armBusy hi.buildable.tMedium_nonneg

/-- In 4-bit mode a read moves the phase; in 8-bit mode it leaves it HIGH. -/
theorem setPhase {p : Phase} (hp : s.ctl.dataLen = .eight → p = .high) :
    (s.onCtl fun c => { c with phase := p }).Inv :=
  hi.onCtl (hi.ctl_wf.setPhase hp) rfl

theorem loadData (v : Byte) : (s.loadData v).Inv :=
  loadData_elim (fun _ => hi.finishRead.answer _)
    (fun h4 _ => (hi.setPhase (by simp [h4])).answer _)
    (fun _ _ => (hi.setPhase fun _ => rfl).finishRead.answer _)

/-- Time moves on to a moment that no deadline precedes (rule R141). -/
theorem advance {u : Time} (hu : s.now ≤ u) (hb : ∀ b, s.ctl.busyDeadline = some b → u ≤ b)
    (hk : u ≤ s.ctl.blinkDeadline) (inbox : List Delivery) (r : Option Reply) :
    State.Inv { s with now := u, inbox := inbox, reply := r } :=
  { hi with now_nonneg := hi.now_nonneg.trans hu, busy_ahead := hb, blink_ahead := hk }

theorem fire (k : Timer) : (fire k s).Inv := by
  cases k with
  | busy => exact { hi with busy_iff := rfl, busy_ahead := fun _ ht => by cases ht }
  | blink =>
    refine { hi with blink_ahead := ?_ }
    show s.now ≤ Time.plus s.ctl.blinkDeadline s.cfg.tBlink
    rw [Time.plus_eq]
    exact hi.blink_ahead.trans (le_add_of_nonneg_right hi.buildable.tBlink_nonneg)

end State.Inv

/-- A controller that can be built meets the invariant as it starts (rule R145). -/
theorem initial_inv {cfg : Config} {t : Time} (hc : cfg.check = none) (ht : 0 ≤ t) : (State.initial cfg t).Inv where
  cfg_ok := hc
  ac_valid := rfl
  shift_lt := (Config.check_none_iff.1 hc).ring_pos
  busy_iff := rfl
  phase_high := fun _ => rfl
  ddram_wf := rfl
  cgram_wf := rfl
  now_nonneg := ht
  busy_ahead := fun b hb => by
    cases hb
    exact now_le_deadline (s := State.initial cfg t) hc (Config.check_none_iff.1 hc).tLong_nonneg
  blink_ahead := by
    show t ≤ Time.plus t cfg.tBlink
    rw [Time.plus_eq]
    exact le_add_of_nonneg_right (Config.check_none_iff.1 hc).tBlink_nonneg

/-- A reset at any time is a fresh start at that time. -/
theorem State.Inv.resetCtl {s : State} (hi : s.Inv) : (s.onCtl fun _ => Controller.atReset s.cfg s.now).Inv :=
  { initial_inv hi.cfg_ok hi.now_nonneg with }

/-! ### Operations, transactions, steps -/

/-- An operation keeps the invariant; a Function Set, where it runs with the phase HIGH. -/
theorem exec_inv {i : Instr} {s t : State} (hi : s.Inv)
    (hp : (∃ dl n f, i = .functionSet dl n f) → s.ctl.phase = .high) (h : exec i s = .next t) : t.Inv := by
  have hb := hi.buildable
  have hw := hi.ctl_wf
  revert hp
  refine exec_next_elim (motive := fun i t => ((∃ dl n f, i = .functionSet dl n f) → s.ctl.phase = .high) → t.Inv)
    (null := fun _ => hi.consumeFirst)
    (clear := fun _ => (hi.onCtl (g := fun c => { c.home with ddram := [] }) hw.clear rfl).armBusy hb.tLong_nonneg)
    (home := fun _ => ((hi.onCtl hw.home rfl).armBusy hb.tLong_nonneg).consumeFirst)
    (entry := fun _ _ _ => ((hi.onCtl { hw with } rfl).armBusy hb.tShort_nonneg).consumeFirst)
    (display := fun _ _ _ _ => ((hi.onCtl { hw with } rfl).armBusy hb.tShort_nonneg).consumeFirst)
    (shift := fun _ _ => ((hi.onCtl (hw.shiftDisplay _) rfl).armBusy hb.tShort_nonneg).consumeFirst)
    (move := fun _ _ => ((hi.onCtl (hw.updateAC _) rfl).armBusy hb.tShort_nonneg).consumeFirst)
    (rejected := fun _ _ _ _ _ => hi.raiseDiag _ _)
    (accepted := fun dl n f _ hp =>
      ((hi.onCtl (hw.setFunction (hp ⟨dl, n, f, rfl⟩) dl n f) rfl).armBusy hb.tShort_nonneg).consumeFirst)
    (cgaddr := fun a _ => ((hi.onCtl (hw.setCgramAddr a) rfl).armBusy hb.tShort_nonneg).consumeFirst)
    (ddaddr := fun _ _ => ((hi.onCtl (hw.setDdramAddr _) rfl).armBusy hb.tShort_nonneg).consumeFirst)
    (status8 := fun _ _ => hi.answer _)
    (statusHigh := fun h4 _ _ => (hi.setPhase (by simp [h4])).answer _)
    (statusLow := fun _ _ _ => (hi.setPhase fun _ => rfl).answer _)
    (dropWrite := fun _ _ _ => hi.raiseDiag _ _)
    (write := fun v _ hc _ =>
      (hi.onCtl (hw.storeData hc v) (Controller.storeData_timers _ _ _)).armBusy hb.tMedium_nonneg)
    (dropRead := fun _ _ => (hi.raiseDiag _ _).answer _)
    (read := fun _ _ _ => hi.loadData _) h

/-- A command is complete when its second nibble is: in 4-bit mode it runs with the phase back at HIGH (rule R103). -/
theorem multiplex_functionSet_phase {rs rw : Bool} {db : Byte} {s u : State} {dl n f : Bool}
    (h : multiplex rs rw db s = .completes (.functionSet dl n f) u) (h4 : u.ctl.dataLen = .four) :
    u.ctl.phase = .high := by
  refine multiplex_elim
    (motive := fun T => T = .completes (.functionSet dl n f) u → u.ctl.dataLen = .four → u.ctl.phase = .high)
    ?dropped ?command8 ?write8 ?statusRead ?dataRead ?commandHigh ?commandLow ?writeHigh ?writeLow h h4
  case command8 =>
    intro _ _ h8 hu h4
    obtain ⟨-, rfl⟩ := Transaction.completes.inj hu
    cases h8.symm.trans h4
  case commandLow =>
    intro _ _ _ _ hu _
    obtain ⟨-, rfl⟩ := Transaction.completes.inj hu
    rfl
  case dropped | commandHigh | writeHigh => intros; contradiction
  case write8 | statusRead | dataRead | writeLow =>
    intros
    rename_i hu _
    cases hu

theorem multiplex_inv (rs rw : Bool) (db : Byte) (s : State) (hi : s.Inv) : (multiplex rs rw db s).state.Inv :=
  multiplex_keeps (P := State.Inv)
    (fun _ _ _ _ _ _ hi hp =>
      hi.onCtl (g := fun c => { c with lastRs := _, lastRw := _, ir := _, dr := _, phase := _ })
        { hi.ctl_wf with phase_high := fun h8 => (hp h8).trans (hi.phase_high h8) } rfl)
    (fun _ k n hi => hi.raiseDiag k n) (fun _ r hi => hi.answer r) rs rw db s hi

theorem deliver_inv {e : HostEvent} {s t : State} (hi : s.Inv) (h : deliver e s = .next t) : t.Inv := by
  refine deliver_keeps (P := State.Inv) ?operation multiplex_inv (fun _ _ _ _ _ _ hi => { hi with })
    (fun _ _ hi => { hi with }) (fun _ _ hi => hi.resetCtl) hi h
  case operation =>
    intro rs rw db s i u t _ hm hu hx
    refine exec_inv hu ?_ hx
    rintro ⟨dl, n, f, rfl⟩
    cases hl : u.ctl.dataLen with
    | four => exact multiplex_functionSet_phase hm hl
    | eight => exact hu.phase_high hl

/-- When an event is processed. -/
def Upcoming.time : Upcoming → Time
  | .timer _ t => t
  | .host _ _ t => t

/-- Time does not go back, and no deadline is passed over (rule R141). -/
theorem State.Inv.upcoming_time {s : State} (hi : s.Inv) :
    s.now ≤ s.upcoming.time ∧ (∀ b, s.ctl.busyDeadline = some b → s.upcoming.time ≤ b) ∧
      s.upcoming.time ≤ s.ctl.blinkDeadline := by
  refine upcoming_elim
    (motive := fun u => s.now ≤ u.time ∧ (∀ b, s.ctl.busyDeadline = some b → u.time ≤ b) ∧
      u.time ≤ s.ctl.blinkDeadline) ?blink ?busy ?host
  case blink => exact fun hb => ⟨hi.blink_ahead, hb, le_rfl⟩
  case busy =>
    intro b hb hle
    refine ⟨hi.busy_ahead b hb, fun b' hb' => ?_, hle⟩
    cases hb.symm.trans hb'
    exact le_rfl
  case host => exact fun d _ _ hk hb => ⟨le_max_left _ _, hb, hk⟩

theorem step_inv {s t : State} (hi : s.Inv) (h : step s = .next t) : t.Inv := by
  obtain ⟨hnow, hbusy, hblink⟩ := hi.upcoming_time
  obtain ⟨_, ⟨k, u, hu, rfl⟩ | ⟨d, rest, u, hu, hd⟩⟩ := step_next h <;> rw [hu] at hnow hbusy hblink
  · exact (hi.advance hnow hbusy hblink _ _).fire k
  · exact deliver_inv (hi.advance hnow hbusy hblink _ _) hd

/-- Settles O52: time moves on to a moment that no deadline precedes, and then a timer fires or a host event is
delivered, and each keeps the invariant. -/
theorem everyStepKeepsTheInvariant : Obligations.EveryStepKeepsTheInvariant :=
  fun _ _ hi h => step_inv hi h

end Sys2Proof.Machine
end

section
/-! PROOFS. What only operations and resets change: the bank, the modes and `first_cmd` (rules R18, R21 to R30), and the
cells of the two RAMs (rules R14, R15). What an operation does to the modes is said once, as a function of the modes;
each statement about an element of them is read off that function. -/

namespace Sys2Proof.Machine

/-- A step that is a reset leaves the controller as `reset()` does (rule R145). -/
theorem step_reset {s t : State} (h : step s = .next t) (hr : s.nextIsReset = true) :
    t.ctl = Controller.atReset t.cfg t.now := by
  unfold State.nextIsReset at hr
  obtain ⟨_, ⟨k, u, hu, rfl⟩ | ⟨d, rest, u, hu, hd⟩⟩ := step_next h <;> rw [hu] at hr
  · cases hr
  · rw [of_decide_eq_true hr] at hd
    cases hd
    rfl

/-! ### What an operation does to the modes -/

/-- The bank, the mode elements and `first_cmd`: the other elements at fixed values. -/
def Controller.modes (c : Controller) : Controller :=
  { c.core with ddram := [], cgram := [], ac := 0 }

theorem modes_congr_core {c c' : Controller} (h : c.core = c'.core) : c.modes = c'.modes := by
  rw [Controller.modes, h, Controller.modes]

/-- What an operation leaves in the modes `c`, on a ring of `ring` positions and with the busy flag `busy` (rules R79 to
R89, R93). -/
def Controller.modesAfter (c : Controller) (ring : Nat) (busy : Bool) : Instr → Controller
  | .null => { c with firstCmd := false }
  | .clearDisplay => c.home
  | .returnHome => { c.home with firstCmd := false }
  | .entryModeSet id sh => { c with direction := Direction.ofBit id, shiftOn := sh, firstCmd := false }
  | .displayControl d u b => { c with displayOn := d, cursorOn := u, blinkOn := b, firstCmd := false }
  | .cursorDisplayShift true rl => { c.shiftDisplay ring (Direction.ofBit rl) with firstCmd := false }
  | .cursorDisplayShift false _ => { c with firstCmd := false }
  | .functionSet dl n f =>
    if c.functionSetRejected dl n f then c
    else
      { c with
        dataLen := DataLen.ofBit dl, numLines := LineCount.ofBit n, glyphH := GlyphHeight.ofBit f, firstCmd := false }
  | .setCgramAddr _ => { c with bank := .cgram, firstCmd := false }
  | .setDdramAddr _ => { c with bank := .ddram, firstCmd := false }
  | .dataWrite _ => if busy then c else c.shiftOnWrite ring
  | .statusRead | .dataRead => c

theorem Controller.storeData_modes (c : Controller) (ring : Nat) (v : Byte) :
    (c.storeData ring v).modes = c.modes.shiftOnWrite ring := by
  rw [Controller.storeData_eq]
  cases hs : c.shiftOn <;> simp [Controller.shiftOnWrite, Controller.modes, Controller.core, Controller.shiftDisplay, hs]

theorem loadData_modes (s : State) (v : Byte) : (s.loadData v).ctl.modes = s.ctl.modes :=
  loadData_elim (motive := fun t => t.ctl.modes = s.ctl.modes) (fun _ => rfl) (fun _ _ => rfl) (fun _ _ => rfl)

theorem exec_modes {i : Instr} {s t : State} (h : exec i s = .next t) :
    t.ctl.modes = s.ctl.modes.modesAfter s.cfg.displayRing s.ctl.busy i := by
  refine exec_next_elim (motive := fun i t => t.ctl.modes = s.ctl.modes.modesAfter s.cfg.displayRing s.ctl.busy i)
    (rejected := fun _ _ _ hr => (if_pos hr).symm)
    (accepted := fun _ _ _ hr => (if_neg (Bool.eq_false_iff.1 hr)).symm)
    (dropWrite := fun _ hb => (if_pos hb).symm)
    (write := fun v hb _ => (Controller.storeData_modes _ _ v).trans (if_neg (Bool.eq_false_iff.1 hb)).symm)
    (read := fun _ _ => loadData_modes s _)
    ?null ?clear ?home ?entry ?display ?shift ?move ?cgaddr ?ddaddr ?status8 ?statusHigh ?statusLow ?dropRead h
  all_goals intros; rfl

/-- Only an operation that the step completes changes the modes, unless the step is a reset. -/
theorem step_modes {s t : State} (h : step s = .next t) (hr : s.nextIsReset = false) :
    t.ctl.modes = s.ctl.modes ∨
      ∃ i ring, s.nextInstr = some i ∧ t.ctl.modes = s.ctl.modes.modesAfter ring s.ctl.busy i := by
  rcases step_core h hr with hc | ⟨i, u, t', hi, hu, hb, hx, ht⟩
  · exact .inl (modes_congr_core hc)
  · refine .inr ⟨i, u.cfg.displayRing, hi, ?_⟩
    rw [← modes_congr_core ht, exec_modes hx, modes_congr_core hu, hb]

/-! ### The first-command flag -/

/-- Whether an operation makes `first_cmd` false (rule R89): a command other than Clear Display. -/
def consumesFirst : Instr → Bool
  | .clearDisplay | .statusRead | .dataWrite _ | .dataRead => false
  | .null | .returnHome | .entryModeSet _ _ | .displayControl _ _ _ | .cursorDisplayShift _ _ | .functionSet _ _ _
  | .setCgramAddr _ | .setDdramAddr _ => true

/-- A rejected Function Set counts among the consumers: it is rejected only where `first_cmd` is false already
(rule R82). -/
theorem modesAfter_firstCmd (c : Controller) (ring : Nat) (busy : Bool) (i : Instr) :
    (c.modesAfter ring busy i).firstCmd = (c.firstCmd && !consumesFirst i) := by
  cases i with
  | functionSet dl n f =>
    simp only [Controller.modesAfter, consumesFirst]
    split
    · rename_i hr
      simp only [Controller.functionSetRejected, Bool.and_eq_true, Bool.not_eq_true'] at hr
      simp [hr.1.1]
    · simp
  | cursorDisplayShift sc rl => cases sc <;> simp [Controller.modesAfter, consumesFirst]
  | dataWrite v =>
    simp only [Controller.modesAfter, Controller.shiftOnWrite, consumesFirst]
    split_ifs <;> simp
  | null | clearDisplay | returnHome | entryModeSet | displayControl | setCgramAddr | setDdramAddr | statusRead
  | dataRead => simp [Controller.modesAfter, consumesFirst]

theorem exec_firstCmd {i : Instr} {s t : State} (h : exec i s = .next t) :
    t.ctl.firstCmd = (s.ctl.firstCmd && !consumesFirst i) :=
  (congrArg Controller.firstCmd (exec_modes h)).trans (modesAfter_firstCmd ..)

theorem consumesFirst_decodeCommand (w : Byte) :
    consumesFirst (decodeCommand w) = if w = 0x01 then false else true := by
  revert w; decide +kernel

/-- Without a reset, `first_cmd` does not come back. -/
theorem step_firstCmd {s t : State} (h : step s = .next t) (hr : s.nextIsReset = false)
    (ht : t.ctl.firstCmd = true) : s.ctl.firstCmd = true := by
  rcases step_modes h hr with hm | ⟨i, ring, _, hm⟩
  · exact (congrArg Controller.firstCmd hm).symm.trans ht
  · have := (congrArg Controller.firstCmd hm).symm.trans ht
    rw [modesAfter_firstCmd, Bool.and_eq_true] at this
    exact this.1

/-- Settles O58: `first_cmd` stays exactly where the operation does not consume it, and among the command bytes only
0x01 does not. -/
theorem firstCommandFlagBookkeeping : Obligations.FirstCommandFlagBookkeeping := by
  refine ⟨fun w s t h => ?_, fun i s t hi h => ?_, fun s t h hs ht => ?_⟩
  · rw [exec_firstCmd h, consumesFirst_decodeCommand]
    split_ifs <;> simp
  · rw [exec_firstCmd h]
    rcases hi with ⟨v, rfl⟩ | rfl | rfl <;> simp [consumesFirst]
  · by_contra hr
    have := step_firstCmd h (Bool.eq_false_iff.2 hr) ht
    simp [hs] at this

/-! ### The modes while `first_cmd` is true -/

/-- The modes that `reset()` leaves, whatever the parameters and the time (rule R145). -/
def resetModes : Controller := (Controller.atReset Config.default 0).modes

theorem atReset_modes (cfg : Config) (t : Time) : (Controller.atReset cfg t).modes = resetModes := rfl

theorem firstCommandModes_iff {s : State} :
    s.FirstCommandModes ↔ (s.ctl.firstCmd = true → s.ctl.modes = resetModes) := by
  refine imp_congr_right fun hf => ?_
  simp only [resetModes, Controller.modes, Controller.core, Controller.atReset, Controller.mk.injEq, true_and, and_true,
    hf]
  tauto

/-- An operation that leaves `first_cmd` true leaves the modes at their reset values: Clear Display homes to them, and
a data write does not shift, since `shift_on` is false. -/
theorem modesAfter_resetModes {ring : Nat} {busy : Bool} {i : Instr} (hi : consumesFirst i = false) :
    resetModes.modesAfter ring busy i = resetModes := by
  cases i with
  | dataWrite v => cases busy <;> rfl
  | clearDisplay | statusRead | dataRead => rfl
  | null | returnHome | entryModeSet | displayControl | cursorDisplayShift | functionSet | setCgramAddr
  | setDdramAddr => cases hi

theorem step_firstCommandModes {s t : State} (hs : s.FirstCommandModes) (h : step s = .next t) :
    t.FirstCommandModes := by
  rw [firstCommandModes_iff] at *
  intro ht
  cases hr : s.nextIsReset with
  | true => rw [step_reset h hr, atReset_modes]
  | false =>
    have hm := hs (step_firstCmd h hr ht)
    rcases step_modes h hr with he | ⟨i, ring, _, he⟩
    · exact he.trans hm
    · have hf := (congrArg Controller.firstCmd he).symm.trans ht
      rw [modesAfter_firstCmd, Bool.and_eq_true, Bool.not_eq_true'] at hf
      rw [he, hm, modesAfter_resetModes hf.2]

/-- Settles O53: a step that leaves `first_cmd` true is a reset, or completes nothing that changes the modes from their
reset values. -/
theorem everyStepKeepsTheFirstCommandModes : Obligations.EveryStepKeepsTheFirstCommandModes :=
  fun _ _ hs h => step_firstCommandModes hs h

/-- Settles O51: State.reset is a start at time 0 with the default parameters, which can be built. -/
theorem invariantHoldsAtReset : Obligations.InvariantHoldsAtReset :=
  ⟨initial_inv (by decide) le_rfl, firstCommandModes_iff.2 fun _ => rfl⟩

end Sys2Proof.Machine
end

section
/-! PROOFS. Which operation changes which element of the modes (rules R18, R21 to R29), and which changes a cell of
DDRAM or CGRAM (rules R14, R15). -/

namespace Sys2Proof.Machine

/-! ### The writers of the modes -/

/-- From the modes `c` to `c'` with the operation `o`, or with none: each element that differs has one of its writers
in `o`. -/
def ModeWriters (o : Option Instr) (busy : Bool) (c c' : Controller) : Prop :=
  (c'.dataLen ≠ c.dataLen ∨ c'.numLines ≠ c.numLines ∨ c'.glyphH ≠ c.glyphH →
    ∃ dl n f, o = some (.functionSet dl n f) ∧ c.functionSetRejected dl n f = false) ∧
  (c'.displayOn ≠ c.displayOn ∨ c'.cursorOn ≠ c.cursorOn ∨ c'.blinkOn ≠ c.blinkOn →
    ∃ d u b, o = some (.displayControl d u b)) ∧
  (c'.shiftOn ≠ c.shiftOn → ∃ id sh, o = some (.entryModeSet id sh)) ∧
  (c'.direction ≠ c.direction →
    (∃ id sh, o = some (.entryModeSet id sh)) ∨ o = some .returnHome ∨ o = some .clearDisplay) ∧
  (c'.bank ≠ c.bank →
    (∃ a, o = some (.setDdramAddr a)) ∨ (∃ a, o = some (.setCgramAddr a)) ∨ o = some .returnHome ∨
    o = some .clearDisplay) ∧
  (c'.dispShift ≠ c.dispShift →
    (∃ rl, o = some (.cursorDisplayShift true rl)) ∨
    ((∃ v, o = some (.dataWrite v)) ∧ busy = false ∧ c.shiftOn = true) ∨ o = some .returnHome ∨
    o = some .clearDisplay)

/-- Where the modes stay as they are, nothing has to be written. -/
theorem ModeWriters.refl {o : Option Instr} {busy : Bool} {c : Controller} : ModeWriters o busy c c := by
  simp [ModeWriters]

/-- The two conditional writers are an accepted Function Set and a data write with `shift_on` while not busy. -/
theorem modesAfter_writers (c : Controller) (ring : Nat) (busy : Bool) (i : Instr) :
    ModeWriters (some i) busy c (c.modesAfter ring busy i) := by
  cases i with
  | functionSet dl n f =>
    simp only [Controller.modesAfter]
    split
    · exact .refl
    · rename_i hr
      refine ⟨fun _ => ⟨dl, n, f, rfl, Bool.eq_false_iff.2 hr⟩, ?_⟩
      simp
  | dataWrite v =>
    simp only [Controller.modesAfter, Controller.shiftOnWrite]
    split
    · exact .refl
    · rename_i hb
      split
      · rename_i hs
        simp [ModeWriters, hb, hs]
      · exact .refl
  | cursorDisplayShift sc rl => cases sc <;> simp [ModeWriters, Controller.modesAfter]
  | null | clearDisplay | returnHome | entryModeSet | displayControl | setCgramAddr | setDdramAddr | statusRead
  | dataRead => simp [ModeWriters, Controller.modesAfter]

theorem step_modeWriters {s t : State} (h : step s = .next t) (hr : s.nextIsReset = false) :
    ModeWriters s.nextInstr s.ctl.busy s.ctl.modes t.ctl.modes := by
  rcases step_modes h hr with hm | ⟨i, ring, hi, hm⟩ <;> rw [hm]
  · exact .refl
  · rw [hi]
    exact modesAfter_writers ..

/-- Settles O57: a step that is no reset changes the modes only through the operation it completes, and each operation
changes its own elements alone. -/
theorem onlyNamedCommandsChangeTheModes : Obligations.OnlyNamedCommandsChangeTheModes :=
  fun _ _ h hr => step_modeWriters h hr

/-! ### The writers of the RAMs -/

theorem storeData_memRead {cfg : Config} {c : Controller} (hd : Memory.wf cfg .ddram c.ddram = true)
    (hc : Memory.wf cfg .cgram c.cgram = true) (ring : Nat) (v : Byte) (b : Bank) (a : Nat) :
    (c.storeData ring v).memRead b a = if b = c.bank ∧ a = c.ac.toNat then v else c.memRead b a := by
  rw [← Controller.memRead_memWrite hd hc]
  exact Controller.memRead_congr (by rw [Controller.storeData_eq]) (by rw [Controller.storeData_eq]) b a

theorem loadData_memRead (s : State) (v : Byte) (b : Bank) (a : Nat) :
    (s.loadData v).ctl.memRead b a = s.ctl.memRead b a :=
  loadData_elim (motive := fun t => t.ctl.memRead b a = s.ctl.memRead b a)
    (fun _ => Controller.memRead_congr rfl rfl b a) (fun _ _ => Controller.memRead_congr rfl rfl b a)
    (fun _ _ => Controller.memRead_congr rfl rfl b a)

/-- An operation changes a cell only as Clear Display, in DDRAM, or as an accepted data write, at AC. -/
theorem exec_memRead {cfg : Config} {i : Instr} {s t : State} (hd : Memory.wf cfg .ddram s.ctl.ddram = true)
    (hc : Memory.wf cfg .cgram s.ctl.cgram = true) (b : Bank) (a : Nat) (h : exec i s = .next t) :
    t.ctl.memRead b a = s.ctl.memRead b a ∨ (i = .clearDisplay ∧ b = .ddram) ∨
      (∃ v, i = .dataWrite v) ∧ s.ctl.bank = b ∧ s.ctl.busy = false ∧ a = s.ctl.ac.toNat := by
  refine exec_next_elim
    (motive := fun i t => t.ctl.memRead b a = s.ctl.memRead b a ∨ (i = .clearDisplay ∧ b = .ddram) ∨
      (∃ v, i = .dataWrite v) ∧ s.ctl.bank = b ∧ s.ctl.busy = false ∧ a = s.ctl.ac.toNat)
    (read := fun _ _ => .inl (loadData_memRead s _ b a))
    ?null ?clear ?home ?entry ?display ?shift ?move ?rejected ?accepted ?cgaddr ?ddaddr ?status8 ?statusHigh ?statusLow
    ?dropWrite ?write ?dropRead h
  case clear =>
    cases b with
    | ddram => exact .inr (.inl ⟨rfl, rfl⟩)
    | cgram => exact .inl rfl
  case write =>
    intro v hb _
    by_cases hcell : b = s.ctl.bank ∧ a = s.ctl.ac.toNat
    · exact .inr (.inr ⟨⟨v, rfl⟩, hcell.1.symm, hb, hcell.2⟩)
    · exact .inl ((storeData_memRead hd hc _ v b a).trans (if_neg hcell))
  all_goals intros; exact .inl (Controller.memRead_congr rfl rfl b a)

theorem memRead_congr_core {c c' : Controller} (h : c.core = c'.core) (b : Bank) (a : Nat) :
    c.memRead b a = c'.memRead b a :=
  Controller.memRead_congr (congrArg Controller.ddram h) (congrArg Controller.cgram h) b a

/-- A step changes a cell only as a reset, Clear Display or an accepted data write. -/
theorem step_memRead {s t : State} (hi : s.Inv) (h : step s = .next t) {b : Bank} {a : Nat}
    (hne : t.ctl.memRead b a ≠ s.ctl.memRead b a) :
    s.nextIsReset = true ∨ (s.nextInstr = some .clearDisplay ∧ b = .ddram) ∨
      (∃ v, s.nextInstr = some (.dataWrite v)) ∧ s.ctl.bank = b ∧ s.ctl.busy = false ∧ a = s.ctl.ac.toNat := by
  cases hr : s.nextIsReset with
  | true => exact .inl rfl
  | false =>
    rcases step_core h hr with hc | ⟨i, u, t', hn, hu, hb, hx, ht⟩
    · exact absurd (memRead_congr_core hc b a) hne
    · obtain ⟨hd, hc, hac, hbank, -⟩ := Controller.mk.inj hu
      rw [← memRead_congr_core ht, ← memRead_congr_core hu] at hne
      have hw := (exec_memRead (hd ▸ hi.ddram_wf) (hc ▸ hi.cgram_wf) b a hx).resolve_left hne
      rw [hbank, hac, hb] at hw
      simpa only [hn, Option.some.injEq] using Or.inr hw

/-- Settles O55: the case of DDRAM. -/
theorem onlyNamedEventsChangeDdram : Obligations.OnlyNamedEventsChangeDdram := by
  intro s t a hi h hne
  exact (step_memRead hi h hne).imp_right (Or.imp_left And.left)

/-- Settles O56: the case of CGRAM, which Clear Display leaves alone. -/
theorem onlyNamedEventsChangeCgram : Obligations.OnlyNamedEventsChangeCgram := by
  intro s t a hi h hne
  simpa using step_memRead hi h hne

end Sys2Proof.Machine
end

section
/-! PROOFS. The address counter (rules R41 to R44) and the display ring (rule R45). `UpdateAC` corrects an integer; on the
valid addresses this is `ringStep`, the table of neighbours, and the claims about moves of AC are read off the table. -/

namespace Sys2Proof.Machine

/-! ### The moves of AC -/

/-- From a valid address, the corrected address is the neighbour on the ring: a sum leaves the valid addresses only at
the ends, where the correction wraps it, and below 0x40 in two-line mode, the special case of rule R44. -/
theorem correct_movedAddress {b : Bank} {n : LineCount} {a : BitVec 7} (d : Direction)
    (h : addressValid b n a = true) :
    BitVec.ofInt 7 (correct b n (movedAddress b n d a)) = ringStep b n d a := by
  apply BitVec.eq_of_toNat_eq
  cases b with
  | cgram =>
    have ha : a.toNat ≤ 0x3F := of_decide_eq_true h
    cases d <;> simp [correct, correctCgram, movedAddress, ringStep, Direction.toInt, ← BitVec.toNat_inj] <;>
      split_ifs <;> simp <;> omega
  | ddram =>
    cases n with
    | one =>
      have ha : a.toNat ≤ 0x4F := of_decide_eq_true h
      cases d <;> simp [correct, correctOneLine, movedAddress, ringStep, Direction.toInt, ← BitVec.toNat_inj] <;>
        split_ifs <;> simp <;> omega
    | two =>
      have ha : a.toNat ≤ 0x27 ∨ 0x40 ≤ a.toNat ∧ a.toNat ≤ 0x67 := by simpa [addressValid] using h
      cases d <;> simp [correct, correctTwoLines, movedAddress, ringStep, Direction.toInt, ← BitVec.toNat_inj] <;>
        split_ifs <;> simp <;> omega

/-- `UpdateAC` from a valid address (rule R44). -/
theorem Controller.updateAC_eq_ringStep {c : Controller} (h : c.acValid = true) (d : Direction) :
    c.updateAC d = { c with ac := ringStep c.bank c.numLines d c.ac } :=
  congrArg (fun a => { c with ac := a }) (correct_movedAddress d h)

/-- A step on the ring leaves the address it starts from, whether that is valid or not. -/
theorem ringStep_ne (b : Bank) (n : LineCount) (d : Direction) (a : BitVec 7) : ringStep b n d a ≠ a := by
  have hinc : a + 1 ≠ a := by bv_omega
  have hdec : a - 1 ≠ a := by bv_omega
  unfold ringStep
  split <;> split_ifs <;> simp_all

/-- On the valid addresses the two directions are each other's inverse: they join the same ends, and a step that starts
from no end comes to none that the step back would wrap. -/
theorem ringStep_opposite {b : Bank} {n : LineCount} {a : BitVec 7} (d : Direction) (h : addressValid b n a = true) :
    ringStep b n d.opposite (ringStep b n d a) = a := by
  cases b with
  | cgram =>
    have ha : a.toNat ≤ 0x3F := of_decide_eq_true h
    have hinc : a + 1 ≠ 0 := by bv_omega
    have hdec (h0 : a ≠ 0) : a - 1 ≠ 0x3F := by bv_omega
    cases d <;> simp only [ringStep, Direction.opposite] <;> split_ifs <;> simp_all
  | ddram =>
    cases n with
    | one =>
      have ha : a.toNat ≤ 0x4F := of_decide_eq_true h
      have hinc : a + 1 ≠ 0 := by bv_omega
      have hdec (h0 : a ≠ 0) : a - 1 ≠ 0x4F := by bv_omega
      cases d <;> simp only [ringStep, Direction.opposite] <;> split_ifs <;> simp_all
    | two =>
      have ha : a.toNat ≤ 0x27 ∨ 0x40 ≤ a.toNat ∧ a.toNat ≤ 0x67 := by simpa [addressValid] using h
      have hinc : a + 1 ≠ 0 := by bv_omega
      have hinc' (h27 : a ≠ 0x27) : a + 1 ≠ 0x40 := by bv_omega
      have hdec (h0 : a ≠ 0) : a - 1 ≠ 0x67 := by bv_omega
      have hdec' (h40 : a ≠ 0x40) : a - 1 ≠ 0x27 := by bv_omega
      cases d <;> simp only [ringStep, Direction.opposite] <;> split_ifs <;> simp_all

/-- Settles O7: the frame is that of `setAC`, and the new address is the table's. -/
theorem updateACFollowsTheRing : Obligations.UpdateACFollowsTheRing :=
  fun _ d h => Controller.updateAC_eq_ringStep h d

/-- Settles O8: both moves are steps on the ring. -/
theorem updateACIsUndoneByTheOppositeMove : Obligations.UpdateACIsUndoneByTheOppositeMove := by
  intro c d h
  have hv := c.updateAC_acValid d
  refine ⟨?_, hv⟩
  rw [Controller.updateAC_eq_ringStep hv, Controller.updateAC_eq_ringStep h, ringStep_opposite d h]

/-! ### The display ring -/

/-- `ShiftDisplay` on a shift of the ring takes it to its neighbour, with the ends joined (rule R45). -/
theorem Controller.shiftDisplay_eq_ringShift {c : Controller} {ring : Nat} (h : c.dispShift < ring) (d : Direction) :
    c.shiftDisplay ring d = { c with dispShift := ringShift ring d c.dispShift } := by
  refine congrArg (fun n => { c with dispShift := n }) ?_
  cases d with
  | inc =>
    simp only [ringShift, Direction.toInt]
    split
    · rename_i hend
      rw [← hend, Nat.cast_succ, Int.emod_self]
      rfl
    · rw [Int.emod_eq_of_lt (by omega) (by omega)]
      omega
  | dec =>
    simp only [ringShift, Direction.toInt]
    split
    · rename_i hstart
      rw [hstart, ← Int.add_emod_right, Int.emod_eq_of_lt (by omega) (by omega)]
      omega
    · rw [Int.emod_eq_of_lt (by omega) (by omega)]
      omega

/-- Settles O9: the remainder is on the ring and congruent to the sum; below 0 it is the ring's last position. -/
theorem shiftDisplayMovesTheEightyPositionRing : Obligations.ShiftDisplayMovesTheEightyPositionRing := by
  refine ⟨rfl, fun c ring hr => ⟨fun d => ⟨_, rfl, c.shiftDisplay_lt hr d, ?_⟩, fun h0 => ?_⟩⟩
  · have : 0 ≤ ((c.dispShift : Int) + d.toInt) % (ring : Int) := Int.emod_nonneg _ (by omega)
    rw [Int.toNat_of_nonneg this]
    exact Int.dvd_self_sub_emod
  · rw [Controller.shiftDisplay_eq_ringShift (h0 ▸ hr), h0]
    rfl

/-! ### The correction -/

/-- Settles O5: the three clauses are the three branches of `Correct_DD1`. -/
theorem oneLineCorrectionWraps : Obligations.OneLineCorrectionWraps := by
  intro ac
  simp only [correct, correctOneLine]
  refine ⟨fun h => ?_, fun h => ?_, fun h => ?_⟩ <;> split_ifs <;> omega

/-- Settles O6: the clauses with two lines are the branches of `Correct_DD2`, the last one the range of the remainder. -/
theorem twoLineAndCgramCorrection : Obligations.TwoLineAndCgramCorrection := by
  intro ac
  simp only [correct, correctTwoLines, correctCgram]
  refine ⟨fun h => ?_, fun h => ?_, fun h => ?_, fun h => ?_, fun h => ?_, fun _ =>
    ⟨Int.emod_nonneg ac (by decide), Int.emod_lt_of_pos ac (by decide), Int.dvd_self_sub_emod⟩⟩ <;>
    split_ifs <;> omega

end Sys2Proof.Machine
end

section
/-! PROOFS. An accepted data write, and what a cell shows that the cursor does not mark (rules R52, R92, R117 to R121). -/

namespace Sys2Proof.Machine

/-- An accepted data write in a state of the invariant (rules R92, R96). -/
theorem exec_dataWrite_accepted {s : State} (hi : s.Inv) (hb : s.ctl.busy = false) (v : Byte) :
    exec (.dataWrite v) s = .next ((s.onCtl fun c => c.storeData s.cfg.displayRing v).armBusy s.cfg.tMedium) := by
  simp [exec, execDataWrite, hb, hi.cellExists]

theorem Controller.storeData_ac {c : Controller} (h : c.acValid = true) (ring : Nat) (v : Byte) :
    (c.storeData ring v).ac = ringStep c.bank c.numLines c.direction c.ac := by
  rw [Controller.storeData_eq, Controller.updateAC_eq_ringStep h]

/-- A row of a cell inside the buffer (rules R115, R116, R124). -/
theorem render_row {cfg : Config} {c : Controller} {l p r : Nat} (hl : l < c.numLines.toNat)
    (hp : p < c.numLines.cells cfg.displayRing) (hr : r < 16) :
    (render cfg c).row l p r = some (if c.displayOn then renderRow cfg c l p r else 0x00) := by
  simp [RenderBuffer.row, render, renderCell, hl, hp, hr]

theorem GlyphHeight.toNat_lt_sixteen (h : GlyphHeight) : h.toNat < 16 := by
  cases h <;> decide

/-- A glyph row of a cell that is not at AC is the glyph's own (rules R121 to R123). -/
theorem renderRow_of_ne_ac {cfg : Config} {c : Controller} {l p r : Nat} (hr : r < c.glyphH.toNat)
    (h : c.cellAddress cfg.displayRing l p ≠ c.ac.toNat) :
    renderRow cfg c l p r = glyphRow cfg c (c.memRead .ddram (c.cellAddress cfg.displayRing l p)) r := by
  simp [renderRow, h, Nat.not_le.2 hr]

/-- A code from 0x10 on shows its FONT rows (rules R118, R120). -/
theorem glyphRow_font {cfg : Config} {c : Controller} {code : Byte} {r : Nat} (h : 0x10 ≤ code.toNat) :
    glyphRow cfg c code r = cfg.font (BitVec.ofNat 12 (code.toNat * 16 + r)) :=
  if_neg (Nat.not_lt.2 h)

/-- Settles O50: the write leaves the code at the old AC and moves AC off it, so the cell there is not the cursor's. -/
theorem writtenCodeShowsAtThePreIncrementPosition : Obligations.WrittenCodeShowsAtThePreIncrementPosition := by
  intro v s t l p r hi hb hbank hon hv h hl hp haddr hr
  have ht := Host.Outcome.next.inj ((exec_dataWrite_accepted hi hb v).symm.trans h)
  have hac : t.ctl.ac ≠ s.ctl.ac := by
    rw [← ht, armBusy_ctl_ac, onCtl_ctl, Controller.storeData_ac hi.ac_valid]
    exact ringStep_ne _ _ _ _
  have hcell : t.ctl.memRead .ddram s.ctl.ac.toNat = v := by
    rw [← ht]
    exact (storeData_memRead hi.ddram_wf hi.cgram_wf _ v _ _).trans (if_pos ⟨hbank.symm, rfl⟩)
  have hdisp : t.ctl.displayOn = true := by
    rw [← ht, armBusy_ctl_displayOn, onCtl_ctl, Controller.storeData_eq]
    exact hon
  have hne : t.ctl.cellAddress t.cfg.displayRing l p ≠ t.ctl.ac.toNat := by
    rw [haddr, ne_eq, BitVec.toNat_inj]
    exact hac.symm
  refine ⟨hac, ?_⟩
  rw [render_row hl hp (hr.trans t.ctl.glyphH.toNat_lt_sixteen), if_pos hdisp, renderRow_of_ne_ac hr hne, haddr, hcell,
    glyphRow_font hv]

end Sys2Proof.Machine
end

section
/-! PROOFS. The transaction word (rules R56 to R69). A word is its levels and its byte, and a command byte has one of
nine forms, by its highest set bit: the two elimination principles say so once, and the statements about every word are
read off the forms. -/

namespace Sys2Proof

/-! ### The fields of a word -/

@[simp] theorem busRs_busWord (rs rw : Bool) (db : Byte) : busRs (busWord rs rw db) = rs := by
  simp only [busRs, busWord, BitVec.getLsbD_append]
  simp

@[simp] theorem busRw_busWord (rs rw : Bool) (db : Byte) : busRw (busWord rs rw db) = rw := by
  simp only [busRw, busWord, BitVec.getLsbD_append]
  simp

@[simp] theorem busDb_busWord (rs rw : Bool) (db : Byte) : busDb (busWord rs rw db) = db :=
  BitVec.extractLsb'_append_eq_right

theorem busWord_eta (w : BusWord) : busWord (busRs w) (busRw w) (busDb w) = w := by
  refine BitVec.eq_of_getLsbD_eq fun k hk => ?_
  simp only [busWord, busRs, busRw, busDb, BitVec.getLsbD_append]
  interval_cases k <;> simp

theorem busWord_and_levels (rs rw : Bool) (db : Byte) : busWord rs rw db &&& 0x300 = busWord rs rw 0x00 := by
  refine BitVec.eq_of_getLsbD_eq fun k hk => ?_
  simp only [busWord, BitVec.getLsbD_and, BitVec.getLsbD_append]
  interval_cases k <;> simp

theorem decode_busWord (rs rw : Bool) (db : Byte) : decode (busWord rs rw db) = decodeBus rs rw db := by
  simp [decode]

/-- A read ignores the byte (rule R69). -/
theorem decodeBus_read (rs : Bool) (db db' : Byte) : decodeBus rs true db = decodeBus rs true db' := by
  cases rs <;> rfl

/-! ### Decoding an encoded operation -/

/-- The bits above an operand select its operation, and the bits of the operand are read back (rules R59 to R68). -/
theorem decodeBus_encode (i : Instr) : decodeBus (encodeRs i) (encodeRw i) (encodeByte i) = i := by
  cases i with
  | null | clearDisplay | returnHome | statusRead | dataWrite | dataRead => rfl
  | entryModeSet | displayControl | cursorDisplayShift | functionSet | setCgramAddr | setDdramAddr =>
    simp only [decodeBus, encodeRs, encodeRw, encodeByte, decodeCommand, BitVec.getLsbD_append,
      BitVec.extractLsb'_append_eq_right]
    simp

/-- Settles O1: the levels and the byte of an encoded operation are read back, and they select the operation. -/
theorem decodeRecoversEncodedInstruction : Obligations.DecodeRecoversEncodedInstruction := by
  intro i
  exact (decode_busWord _ _ _).trans (decodeBus_encode i)

/-! ### The forms of a word -/

/-- Every command byte is the selecting bit of its operation with zeros above and the operand below; the bits that the
operation ignores are `x` (rules R58, R59, R69). -/
theorem decodeCommand_elim {motive : Byte → Instr → Prop}
    (null : motive (encodeByte .null) .null)
    (clear : motive (encodeByte .clearDisplay) .clearDisplay)
    (home : ∀ x : BitVec 1, motive (0b0000001#7 ++ x) .returnHome)
    (entry : ∀ id s, motive (encodeByte (.entryModeSet id s)) (.entryModeSet id s))
    (display : ∀ d c b, motive (encodeByte (.displayControl d c b)) (.displayControl d c b))
    (shift : ∀ sc rl (x : BitVec 2),
      motive (0b0001#4 ++ BitVec.ofBool sc ++ BitVec.ofBool rl ++ x) (.cursorDisplayShift sc rl))
    (function : ∀ dl n f (x : BitVec 2),
      motive (0b001#3 ++ BitVec.ofBool dl ++ BitVec.ofBool n ++ BitVec.ofBool f ++ x) (.functionSet dl n f))
    (cgaddr : ∀ a, motive (encodeByte (.setCgramAddr a)) (.setCgramAddr a))
    (ddaddr : ∀ a, motive (encodeByte (.setDdramAddr a)) (.setDdramAddr a))
    (db : Byte) : motive db (decodeCommand db) := by
  have same_bits {v : Byte} {i : Instr} (hv : motive v i) (h : ∀ k < 8, v.getLsbD k = db.getLsbD k) : motive db i :=
    BitVec.eq_of_getLsbD_eq h ▸ hv
  unfold decodeCommand
  split_ifs <;>
    [refine same_bits (ddaddr _) ?_; refine same_bits (cgaddr _) ?_;
      refine same_bits (function _ _ _ (db.extractLsb' 0 2)) ?_; refine same_bits (shift _ _ (db.extractLsb' 0 2)) ?_;
      refine same_bits (display _ _ _) ?_; refine same_bits (entry _ _) ?_;
      refine same_bits (home (db.extractLsb' 0 1)) ?_; refine same_bits clear ?_; refine same_bits null ?_]
  all_goals
    intro k hk
    simp only [encodeByte, BitVec.getLsbD_append]
    interval_cases k <;> simp [Bool.of_not_eq_true, *]

/-- Every word is a command, a status read, a data write or a data read, by its levels (rules R40, R56). -/
theorem decode_elim {motive : BusWord → Instr → Prop}
    (command : ∀ db, motive (busWord false false db) (decodeCommand db))
    (statusRead : ∀ db, motive (busWord false true db) .statusRead)
    (dataWrite : ∀ db, motive (busWord true false db) (.dataWrite db))
    (dataRead : ∀ db, motive (busWord true true db) .dataRead) (w : BusWord) : motive w (decode w) := by
  rw [← busWord_eta w, decode_busWord]
  cases busRs w <;> cases busRw w
  · exact command _
  · exact statusRead _
  · exact dataWrite _
  · exact dataRead _

/-! ### Encoding a decoded operation -/

/-- The bits of its words that an operation does not ignore (rule R69). -/
def Instr.usedBits : Instr → BusWord
  | .returnHome => 0x3FE
  | .cursorDisplayShift _ _ | .functionSet _ _ _ => 0x3FC
  | .statusRead | .dataRead => 0x300
  | .null | .clearDisplay | .entryModeSet _ _ | .displayControl _ _ _ | .setCgramAddr _ | .setDdramAddr _
  | .dataWrite _ => 0x3FF

/-- Settles O2: the words of a form differ in their ignored bits alone, and the form's encoded word has these clear. -/
theorem encodeRestoresWordUpToIgnoredBits : Obligations.EncodeRestoresWordUpToIgnoredBits := by
  have whole (w : BusWord) : w = w &&& 0x3FF := BitVec.and_allOnes.symm
  exact decode_elim (motive := fun w i => encode i = w &&& i.usedBits)
    (command := decodeCommand_elim (motive := fun db i => encode i = busWord false false db &&& i.usedBits)
      (null := whole _) (clear := whole _) (home := by decide) (entry := fun _ _ => whole _)
      (display := fun _ _ _ => whole _) (shift := by decide) (function := by decide) (cgaddr := fun _ => whole _)
      (ddaddr := fun _ => whole _))
    (statusRead := fun db => (busWord_and_levels false true db).symm)
    (dataWrite := fun _ => whole _)
    (dataRead := fun db => (busWord_and_levels true true db).symm)

/-! ### The opcode table -/

/-- The byte of a read selects no row: a row tests the levels alone, or wants a write. -/
theorem selectedRows_read (rs : Bool) (db : Byte) :
    selectedRows (busWord rs true db) = selectedRows (busWord rs true 0x00) := by
  have tests : ∀ r ∈ opcodeTable, r.mask = 0x300 ∨ busRw r.mask = true ∧ busRw r.pattern = false := by decide
  refine congrArg (List.map _) (List.filter_congr fun r hr => ?_)
  rcases tests r hr with hlevels | ⟨hmask, hpattern⟩
  · simp only [hlevels, busWord_and_levels]
  · have unselected (v : Byte) : busWord rs true v &&& r.mask ≠ r.pattern := fun h => by
      have hrw : (busRw (busWord rs true v) && busRw r.mask) = busRw r.pattern := by
        rw [← h]
        exact BitVec.getLsbD_and.symm
      simp [hmask, hpattern] at hrw
    simp only [unselected]

/-- Settles O3: the encoded word of every operation selects its own row, and the ignored bits select none. -/
theorem everyWordSelectsItsOneTableRow : Obligations.EveryWordSelectsItsOneTableRow :=
  decode_elim (motive := fun w i => selectedRows w = [i.mnemonic])
    (command := decodeCommand_elim (motive := fun db i => selectedRows (busWord false false db) = [i.mnemonic])
      (null := Laws.TableRow.null) (clear := Laws.TableRow.clearDisplay) (home := by decide)
      (entry := Laws.TableRow.entryModeSet) (display := Laws.TableRow.displayControl) (shift := by decide)
      (function := by decide) (cgaddr := Laws.TableRow.setCgramAddr) (ddaddr := Laws.TableRow.setDdramAddr))
    (statusRead := fun db => (selectedRows_read false db).trans Laws.TableRow.statusRead)
    (dataWrite := Laws.TableRow.dataWrite)
    (dataRead := fun db => (selectedRows_read true db).trans Laws.TableRow.dataRead)

/-- Settles O4: twelve closed words, each decoded by evaluation. -/
theorem spelledOutWordsDecode : Obligations.SpelledOutWordsDecode := by
  unfold Obligations.SpelledOutWordsDecode
  decide

/-! ### Words as bytes and as table words -/

theorem decodeBytes_busBytes (w : BusWord) : decodeBytes (busBytes w) = .ok (decode w, []) := by
  have hhi : ((w.extractLsb' 8 2).zeroExtend 8).toNat < 4 := by
    rw [BitVec.toNat_setWidth]
    exact (Nat.mod_le _ _).trans_lt (BitVec.isLt _)
  have hword : ((w.extractLsb' 8 2).zeroExtend 8).extractLsb' 0 2 ++ busDb w = w := by
    refine BitVec.eq_of_getLsbD_eq fun k hk => ?_
    simp only [busDb, BitVec.getLsbD_append]
    interval_cases k <;> simp
  simp only [busBytes, decodeBytes, if_pos hhi, hword]

theorem busBytes_eq_ofNat (w : BusWord) : busBytes w = [BitVec.ofNat 8 w.toNat, BitVec.ofNat 8 (w.toNat / 256)] := by
  have hlo : busDb w = BitVec.ofNat 8 w.toNat := BitVec.eq_of_toNat_eq (by simp [busDb])
  have hhi : (w.extractLsb' 8 2).zeroExtend 8 = BitVec.ofNat 8 (w.toNat / 256) := by
    refine BitVec.eq_of_toNat_eq ?_
    rw [BitVec.toNat_setWidth, BitVec.extractLsb'_toNat, BitVec.toNat_ofNat, Nat.shiftRight_eq_div_pow]
    omega
  rw [busBytes, hlo, hhi]

theorem busWord_toNat_mod (w : BusWord) : w.toNat % 2 ^ 16 = w.toNat :=
  Nat.mod_eq_of_lt (w.isLt.trans (by decide))

theorem decodeTableWord_toNat (w : BusWord) : decodeTableWord 16 w.toNat = some (decode w) := by
  have hsmall : ¬65536 ≤ w.toNat := Nat.not_le.2 (w.isLt.trans (by decide))
  simp only [decodeTableWord, busWord_toNat_mod, if_neg hsmall, ← busBytes_eq_ofNat, decodeBytes_busBytes]

end Sys2Proof
end

section
/-! PROOFS. A delivered and a placed transaction word (rules R77, R100 to R104). The host event of a word makes the
word's transaction, and a placed event comes next, since no deadline of a state of the invariant lies in the past. -/

namespace Sys2Proof.Machine

/-! ### A delivered word -/

/-- A read transaction runs the read in either width, dropped ones included: a dropped data read is its own meaning's
drop (rules R96, R105, R106). -/
theorem transact_read (rs : Bool) (db : Byte) (s : State) :
    transact rs true db s = exec (decodeBus rs true db) (s.onCtl fun c => c.levelCheck rs true) := by
  unfold transact multiplex
  cases rs with
  | false => cases hl : s.ctl.dataLen <;> simp [hl, forward8, forward4, decodeBus]
  | true =>
    cases hb : s.ctl.busy with
    | true => simp [hb, decodeBus, exec, execDataRead, State.dropData]
    | false => cases hl : s.ctl.dataLen <;> simp [hl, hb, forward8, forward4, decodeBus]

theorem deliver_eventOfWord (w : BusWord) (s : State) :
    deliver (eventOfWord w) s = transact (busRs w) (busRw w) (busDb w) s := by
  unfold eventOfWord
  cases busRw w with
  | false => rfl
  | true =>
    show transact (busRs w) true 0x00 s = _
    rw [transact_read, transact_read, decodeBus_read _ 0x00 (busDb w)]

/-- Settles O29: the host event makes the transaction of its word, which runs the decoded operation in 8-bit mode. -/
theorem stepRunsTheDecodedWordInEightBitMode : Obligations.StepRunsTheDecodedWordInEightBitMode := by
  intro s d rest t w hc hu he h8
  rw [step_host hc hu, he, deliver_eventOfWord]
  exact transact_eight h8

/-! ### A placed event -/

/-- No deadline lies before the present, so an event placed now, before the timers due now, comes next (rules R134,
R141). -/
theorem State.Inv.upcoming_pushNow {s : State} (hi : s.Inv) (e : HostEvent) :
    (s.pushNow e).upcoming = .host ⟨s.now, false, 0, e⟩ s.inbox s.now := by
  have not_due {deadline : Time} (h : s.now ≤ deadline) : dueBefore deadline s.now false = false := by
    simp [dueBefore, Time.before_false_iff, h]
  have hbusy : (s.pushNow e).busyDue s.now false = false := by
    unfold State.busyDue
    split
    · rfl
    · exact not_due (hi.busy_ahead _ ‹_›)
  simp only [State.pushNow] at hbusy ⊢
  simp [State.upcoming, Time.later_eq, hbusy, not_due hi.blink_ahead]

theorem State.Inv.step_pushNow {s : State} (hi : s.Inv) (e : HostEvent) :
    step (s.pushNow e) = deliver e { s with reply := none } :=
  step_host (s := s.pushNow e) hi.cfg_ok (hi.upcoming_pushNow e)

/-! ### A placed word -/

theorem withFetchWord_toNat (s : State) (w : BusWord) : s.withFetchWord 16 w.toNat = s.placeWord w := by
  rw [State.withFetchWord, busWord_toNat_mod, BitVec.ofNat_toNat, BitVec.setWidth_eq]

/-- But for a write in 4-bit mode, the whole transaction is placed (log entry 8). -/
theorem placeWord_eq_pushNow {s : State} {w : BusWord} (h : s.ctl.dataLen = .four → busRw w = true) :
    s.placeWord w = s.pushNow (eventOfWord w) := by
  unfold State.placeWord eventOfWord
  cases hr : busRw w with
  | true => rfl
  | false =>
    cases hl : s.ctl.dataLen with
    | eight => rfl
    | four => exact absurd (h hl) (by simp [hr])

theorem State.Inv.step_placeWord {s : State} (hi : s.Inv) {w : BusWord} (h : s.ctl.dataLen = .four → busRw w = true) :
    step (s.placeWord w) = transact (busRs w) (busRw w) (busDb w) { s with reply := none } := by
  rw [placeWord_eq_pushNow h, hi.step_pushNow, deliver_eventOfWord]

/-- The first write transaction of `w` in 4-bit mode has been made: its nibble is held (rules R103, R104). -/
def State.holdFirst (s : State) (w : BusWord) : State :=
  s.onCtl fun c =>
    { c with
      phase := .low
      lastRs := busRs w
      lastRw := false
      ir := if busRs w then c.ir else firstNibble (busDb w)
      dr := if busRs w then firstNibble (busDb w) else c.dr }

theorem State.Inv.holdFirst {s : State} (hi : s.Inv) (h4 : s.ctl.dataLen = .four) (w : BusWord) :
    (s.holdFirst w).Inv :=
  { hi with phase_high := fun h8 => by cases h4.symm.trans h8 }

/-- A write in 4-bit mode is placed by its second transaction (log entry 8). -/
theorem placeWord_four_write {s : State} {w : BusWord} (h4 : s.ctl.dataLen = .four) (hr : busRw w = false) :
    s.placeWord w = (s.holdFirst w).pushNow (.write (busRs w) (busDb w <<< 4)) := by
  simp [State.placeWord, State.holdFirst, h4, hr]

/-- The two nibbles of a byte make the byte (rules R57, R103). -/
theorem secondNibble_firstNibble (b : Byte) : secondNibble (firstNibble b) (b <<< 4) = b := by
  refine BitVec.eq_of_getLsbD_eq fun k hk => ?_
  simp only [secondNibble, firstNibble]
  interval_cases k <;> simp

theorem State.Inv.step_placeWord_four_write {s : State} (hi : s.Inv) {w : BusWord} (h4 : s.ctl.dataLen = .four)
    (hr : busRw w = false) (hb : busRs w = true → s.ctl.busy = false) :
    step (s.placeWord w) = exec (decode w) { s with
      reply := none,
      ctl := { s.ctl with
        lastRs := busRs w, lastRw := false, phase := .high,
        ir := if busRs w then s.ctl.ir else busDb w,
        dr := if busRs w then busDb w else s.ctl.dr } } := by
  have hsecond : ((s.holdFirst w).ctl.levelCheck (busRs w) false).phase = .low :=
    Controller.levelCheck_low ⟨rfl, rfl, rfl⟩
  rw [placeWord_four_write h4 hr, (hi.holdFirst h4 w).step_pushNow]
  refine (transact_secondNibble (s := { s.holdFirst w with reply := none }) h4 hb hsecond).trans ?_
  cases hs : busRs w <;> simp [decode, State.holdFirst, hs, hr, secondNibble_firstNibble]

/-- Settles O31: a placed read and a placed word in 8-bit mode are delivered whole; a placed write in 4-bit mode is
delivered by its second nibble, which completes the byte. -/
theorem placedWordIsRunByTheNextStep : Obligations.PlacedWordIsRunByTheNextStep := by
  intro s w hi hdropped
  refine ⟨decodeTableWord_toNat w, ?_⟩
  rw [withFetchWord_toNat]
  cases hr : busRw w with
  | true =>
    have hd : decodeBus (busRs w) true (busDb w) = decode w := by rw [decode, hr]
    rw [hi.step_placeWord fun _ => hr, hr, transact_read, hd]
    refine congrArg (exec (decode w)) ?_
    simp [State.onCtl, Controller.levelCheck]
  | false =>
    cases hl : s.ctl.dataLen with
    | eight =>
      rw [hi.step_placeWord (by simp [hl]), transact_eight (s := { s with reply := none }) hl]
      refine congrArg (exec (decode w)) ?_
      simp [hr, hl]
    | four =>
      have hb : busRs w = true → s.ctl.busy = false := fun hs => by simpa [hl, hr, hs] using hdropped
      rw [hi.step_placeWord_four_write hl hr hb]
      cases busRs w <;> simp [hl]

end Sys2Proof.Machine
end

section
/-! PROOFS. The control-channel commands (rules R78 to R90). Almost all of them change the controller, arm busy and
consume the first command: that shape is one equation, and each command is read off it. A Function Set is accepted or
rejected, an equation each; the nibble law of rule R113 fails where the two widths fall on different sides. -/

namespace Sys2Proof.Machine

/-! ### The shape of a command -/

/-- The deadline that `ArmBusy` sets, in the library's arithmetic (rule R136). -/
theorem deadline_eq_busyUntil (s : State) (base : Time) :
    some (Time.plus s.now (Time.scaled base s.cfg.timingFactor)) = s.busyUntil base := by
  rw [Time.plus_eq, Time.scaled_eq, State.busyUntil]

theorem armBusy_onCtl (s : State) (g : Controller → Controller) (base : Time) :
    (s.onCtl g).armBusy base =
      { s with ctl := { g s.ctl with busy := true, busyDeadline := s.busyUntil base } } := by
  rw [← deadline_eq_busyUntil]
  rfl

theorem consumeFirst_armBusy_onCtl (s : State) (g : Controller → Controller) (base : Time) :
    ((s.onCtl g).armBusy base).consumeFirst =
      { s with ctl := { g s.ctl with busy := true, busyDeadline := s.busyUntil base, firstCmd := false } } := by
  rw [armBusy_onCtl]
  rfl

/-! ### Commands without an address -/

/-- Settles O11: the bookkeeping of rule R89 is all there is. -/
theorem nullConsumesTheFirstCommandOnly : Obligations.NullConsumesTheFirstCommandOnly :=
  fun _ => rfl

/-- Settles O12: no DDRAM cell stays listed, so each reads as the fill value. -/
theorem clearDisplayFillsAndHomes : Obligations.ClearDisplayFillsAndHomes :=
  ⟨rfl, fun s => ⟨_, rfl, fun _ => rfl, armBusy_onCtl s (fun c => { c.home with ddram := [] }) s.cfg.tLong⟩⟩

/-- Settles O13: `Controller.home`, the long delay and the bookkeeping of rule R89. -/
theorem returnHomeRestoresTheOrigin : Obligations.ReturnHomeRestoresTheOrigin :=
  ⟨rfl, rfl, fun s => congrArg Host.Outcome.next (consumeFirst_armBusy_onCtl s Controller.home _)⟩

/-- Settles O14: `Direction.ofBit` reads ID. -/
theorem entryModeSetWritesDirectionAndShift : Obligations.EntryModeSetWritesDirectionAndShift :=
  fun id sh s => congrArg Host.Outcome.next
    (consumeFirst_armBusy_onCtl s (fun c => { c with direction := Direction.ofBit id, shiftOn := sh }) _)

/-- Settles O15: the flags are the operands themselves. -/
theorem displayControlWritesThreeFlags : Obligations.DisplayControlWritesThreeFlags :=
  fun d c b s => congrArg Host.Outcome.next
    (consumeFirst_armBusy_onCtl s (fun k => { k with displayOn := d, cursorOn := c, blinkOn := b }) _)

/-- Settles O16: with SC it is `ShiftDisplay`, on the ring of the display, and without it `UpdateAC`, on the ring of the
valid addresses. -/
theorem cursorDisplayShiftMovesOneOfTwo : Obligations.CursorDisplayShiftMovesOneOfTwo := by
  intro sc rl s hi
  refine (congrArg Host.Outcome.next (consumeFirst_armBusy_onCtl s
    (fun c => if sc then c.shiftDisplay s.cfg.displayRing (Direction.ofBit rl) else c.updateAC (Direction.ofBit rl))
    s.cfg.tShort)).trans ?_
  cases sc with
  | true => simp only [if_true, Controller.shiftDisplay_eq_ringShift hi.shift_lt]; rfl
  | false => simp only [Bool.false_eq_true, if_false, Controller.updateAC_eq_ringStep hi.ac_valid]; rfl

/-! ### The addresses -/

/-- The correction of an address that AC can hold (rules R41 to R43). -/
theorem correct_eq_correctedAddress (b : Bank) (n : LineCount) (a : BitVec 7) :
    BitVec.ofInt 7 (correct b n a.toNat) = correctedAddress b n a := by
  apply BitVec.eq_of_toNat_eq
  cases b with
  | cgram =>
    have hand : (a &&& 0x3F).toNat = a.toNat % 64 := Nat.and_two_pow_sub_one_eq_mod a.toNat 6
    simp only [correct, correctCgram, correctedAddress, hand, BitVec.toNat_ofInt]
    omega
  | ddram =>
    cases n with
    | one =>
      simp only [correct, correctOneLine, correctedAddress, BitVec.toNat_ofInt]
      split_ifs <;> simp <;> omega
    | two =>
      simp only [correct, correctTwoLines, correctedAddress, BitVec.toNat_ofInt]
      split_ifs <;> simp <;> omega

theorem Controller.setAC_eq_correctedAddress (c : Controller) (a : BitVec 7) :
    c.setAC a.toNat = { c with ac := correctedAddress c.bank c.numLines a } := by
  rw [← correct_eq_correctedAddress]
  rfl

/-- Settles O20: the bank is DDRAM when the address is corrected. -/
theorem setDdramAddrCorrectsTheAddress : Obligations.SetDdramAddrCorrectsTheAddress := by
  intro a s
  refine (congrArg Host.Outcome.next (consumeFirst_armBusy_onCtl s
    (fun c => Controller.setAC { c with bank := .ddram } a.toNat) s.cfg.tShort)).trans ?_
  rw [Controller.setAC_eq_correctedAddress]

theorem exec_setCgramAddr (a : BitVec 6) (s : State) :
    exec (.setCgramAddr a) s = .next { s with ctl := { s.ctl with
      bank := .cgram, ac := a.zeroExtend 7,
      busy := true, busyDeadline := s.busyUntil s.cfg.tShort, firstCmd := false } } :=
  congrArg Host.Outcome.next (consumeFirst_armBusy_onCtl s (fun c => { c with bank := .cgram, ac := a.zeroExtend 7 }) _)

/-- An operation that leaves another bank than it found is one of the four that write the bank (rule R18). -/
theorem exec_bank_ne {i : Instr} {s t : State} (h : exec i s = .next t) (hne : t.ctl.bank ≠ s.ctl.bank) :
    (∃ a, i = .setDdramAddr a) ∨ (∃ a, i = .setCgramAddr a) ∨ i = .returnHome ∨ i = .clearDisplay := by
  obtain ⟨-, -, -, -, hbank, -⟩ := modesAfter_writers s.ctl.modes s.cfg.displayRing s.ctl.busy i
  rw [← exec_modes h] at hbank
  simpa only [Option.some.injEq] using hbank hne

/-- Of the operations, those that take the bank from CGRAM to DDRAM (rule R80). -/
theorem exec_bank_cgram {i : Instr} {s t : State} (hs : s.ctl.bank = .cgram) (h : exec i s = .next t) :
    t.ctl.bank = .cgram ∨ (∃ a, i = .setDdramAddr a) ∨ i = .returnHome ∨ i = .clearDisplay := by
  by_cases hne : t.ctl.bank = s.ctl.bank
  · exact .inl (hne.trans hs)
  · rcases exec_bank_ne h hne with hd | ⟨a, rfl⟩ | hh
    · exact .inr (.inl hd)
    · cases (exec_setCgramAddr a s).symm.trans h
      exact .inl rfl
    · exact .inr (.inr hh)

/-- A data write is dropped by the busy gate, or goes to the active bank: from CGRAM it leaves DDRAM alone. -/
theorem exec_dataWrite_cgram_ddram {v : Byte} {s t : State} (hs : s.ctl.bank = .cgram)
    (h : exec (.dataWrite v) s = .next t) : t.ctl.ddram = s.ctl.ddram := by
  simp only [exec, execDataWrite] at h
  split_ifs at h <;> cases h
  · rfl
  · simp [Controller.storeData_eq, hs, Controller.memWrite]

/-- Settles O19: the bank is written by four operations, this one among them, and a data write goes to the bank it
finds. -/
theorem setCgramAddrSelectsTheBank : Obligations.SetCgramAddrSelectsTheBank := by
  refine ⟨fun a => decodeBus_encode (.setCgramAddr a), exec_setCgramAddr, fun _ _ _ => exec_bank_cgram,
    fun v s t hs h => ⟨exec_dataWrite_cgram_ddram hs h, fun hi hb => ?_⟩⟩
  cases (exec_dataWrite_accepted hi hb v).symm.trans h
  exact (storeData_memRead hi.ddram_wf hi.cgram_wf _ v _ _).trans (if_pos ⟨hs.symm, rfl⟩)

/-! ### FUNCTION_SET -/

/-- When a Function Set is rejected (rule R82, D29). -/
theorem Controller.functionSetRejected_iff {c : Controller} {dl n f : Bool} :
    c.functionSetRejected dl n f = true ↔
      c.firstCmd = false ∧ DataLen.ofBit dl = c.dataLen ∧
        (GlyphHeight.ofBit f ≠ c.glyphH ∨ LineCount.ofBit n ≠ c.numLines) := by
  simp [Controller.functionSetRejected, and_assoc]

/-- When a Function Set is accepted: the condition of rule R82 fails in one of its parts. -/
theorem Controller.functionSetRejected_eq_false_iff {c : Controller} {dl n f : Bool} :
    c.functionSetRejected dl n f = false ↔
      c.firstCmd = true ∨ DataLen.ofBit dl ≠ c.dataLen ∨
        (LineCount.ofBit n = c.numLines ∧ GlyphHeight.ofBit f = c.glyphH) := by
  rw [Bool.eq_false_iff, ne_eq, Controller.functionSetRejected_iff]
  cases c.firstCmd <;> simp
  tauto

theorem exec_functionSet_rejected {s : State} {dl n f : Bool} (h : s.ctl.functionSetRejected dl n f = true) :
    exec (.functionSet dl n f) s = .next (s.raiseDiag .functionSetRejected s.ctl.ir.toNat) :=
  if_pos h

theorem exec_functionSet_accepted {s : State} {dl n f : Bool} (h : s.ctl.functionSetRejected dl n f = false) :
    exec (.functionSet dl n f) s = .next { s with ctl := { s.ctl with
      dataLen := DataLen.ofBit dl,
      numLines := LineCount.ofBit n,
      glyphH := GlyphHeight.ofBit f,
      ac := correctedAddress s.ctl.bank (LineCount.ofBit n) s.ctl.ac,
      busy := true, busyDeadline := s.busyUntil s.cfg.tShort, firstCmd := false } } := by
  refine (if_neg (Bool.eq_false_iff.1 h)).trans ?_
  rw [consumeFirst_armBusy_onCtl, Controller.setFunction, Controller.setAC_eq_correctedAddress]

/-- Settles O17: the premise is the condition of acceptance. -/
theorem functionSetAcceptedWritesTheModes : Obligations.FunctionSetAcceptedWritesTheModes :=
  fun _ _ _ _ h => exec_functionSet_accepted (Controller.functionSetRejected_eq_false_iff.2 h)

/-- Settles O18: the premises are the three parts of the condition of rejection. -/
theorem functionSetRejectedOnlyReports : Obligations.FunctionSetRejectedOnlyReports :=
  fun _ _ _ _ hf hl hc => exec_functionSet_rejected (Controller.functionSetRejected_iff.2 ⟨hf, hl, hc⟩)

/-! ### Commands and the busy flag -/

/-- The base delay that a command arms busy for, where it does (rules R79 to R88, R137). -/
def commandDelay (cfg : Config) : Instr → Option Time
  | .clearDisplay | .returnHome => some cfg.tLong
  | .entryModeSet _ _ | .displayControl _ _ _ | .cursorDisplayShift _ _ | .functionSet _ _ _ | .setCgramAddr _
  | .setDdramAddr _ => some cfg.tShort
  | .null | .statusRead | .dataWrite _ | .dataRead => none

/-- Every command byte but NULL's is a command that arms busy, for the short or the long delay. -/
theorem commandDelay_decodeCommand (cfg : Config) (w : Byte) :
    w ≠ 0x00 → ∃ base, commandDelay cfg (decodeCommand w) = some base ∧ (base = cfg.tShort ∨ base = cfg.tLong) := by
  refine decodeCommand_elim
    (motive := fun w i => w ≠ 0x00 → ∃ base, commandDelay cfg i = some base ∧ (base = cfg.tShort ∨ base = cfg.tLong))
    (null := fun h => absurd rfl h)
    (clear := fun _ => ⟨_, rfl, .inr rfl⟩)
    (home := fun _ _ => ⟨_, rfl, .inr rfl⟩)
    ?entry ?display ?shift ?function ?cgaddr ?ddaddr w
  all_goals intros; exact ⟨_, rfl, .inl rfl⟩

/-- A command that arms busy does not look at the busy timer, and sets it anew (rule R90). -/
theorem exec_command_busy {i : Instr} {s : State} {base : Time} (hd : commandDelay s.cfg i = some base)
    (hr : ∀ x y z, i = .functionSet x y z → s.ctl.functionSetRejected x y z = false) (b : Bool) (dl : Option Time) :
    exec i { s with ctl := { s.ctl with busy := b, busyDeadline := dl } } = exec i s ∧
      ∃ t, exec i s = .next t ∧ t.ctl.busy = true ∧ t.ctl.busyDeadline = s.busyUntil base := by
  cases i with
  | functionSet x y z =>
    cases hd
    have ha := hr x y z rfl
    rw [exec_functionSet_accepted ha,
      exec_functionSet_accepted (s := { s with ctl := { s.ctl with busy := b, busyDeadline := dl } }) ha]
    exact ⟨rfl, _, rfl, rfl, rfl⟩
  | cursorDisplayShift sc rl =>
    cases hd
    cases sc <;> exact ⟨rfl, _, rfl, rfl, deadline_eq_busyUntil s _⟩
  | clearDisplay | returnHome | entryModeSet | displayControl | setCgramAddr | setDdramAddr =>
    cases hd
    exact ⟨rfl, _, rfl, rfl, deadline_eq_busyUntil s _⟩
  | null | statusRead | dataWrite | dataRead => cases hd

/-- Settles O21: a byte other than NULL's is a command with a delay, and such a command sets the busy timer anew. -/
theorem commandsIgnoreAndSupersedeBusy : Obligations.CommandsIgnoreAndSupersedeBusy := by
  intro w b dl s hw hr
  obtain ⟨base, hd, hbase⟩ := commandDelay_decodeCommand s.cfg w hw
  obtain ⟨hsame, t, ht, hbusy, hdeadline⟩ := exec_command_busy hd hr b dl
  exact ⟨hsame, t, base, ht, hbusy, hdeadline, hbase⟩

/-! ### A Function Set in the two widths -/

/-- The two nibbles of a byte, on their lanes, make the byte (rules R57, R103, R113). -/
theorem secondNibble_lanes (v : Byte) : secondNibble (firstNibble (v &&& 0xF0)) ((v <<< 4) &&& 0xF0#8) = v := by
  refine BitVec.eq_of_getLsbD_eq fun k hk => ?_
  simp only [secondNibble, firstNibble]
  interval_cases k <;> simp

/-- In 4-bit mode the two nibbles of a command byte, the first one starting a byte, run the command (rule R103). -/
theorem transact_commandNibbles {s : State} (hl : s.ctl.dataLen = .four)
    (hp : s.ctl.phase = .high ∨ s.ctl.lastRs = true ∨ s.ctl.lastRw = true) (v : Byte) :
    ∃ s1, transact false false (v &&& 0xF0) s = .next s1 ∧
      transact false false ((v <<< 4) &&& 0xF0#8) s1 = exec (decodeCommand v) { s with ctl := { s.ctl with
        lastRs := false, lastRw := false, phase := .high, ir := v } } := by
  have hfirst : (s.ctl.levelCheck false false).phase = .high := Controller.levelCheck_high hl (by simpa using hp)
  refine ⟨_, transact_firstNibble hl (by simp) hfirst, ?_⟩
  rw [transact_secondNibble (rs := false) (by exact hl) (by simp) (Controller.levelCheck_low ⟨rfl, rfl, rfl⟩)]
  simp only [Bool.false_eq_true, if_false, secondNibble_lanes, decodeBus]

/-- A later Function Set that changes the lines or the height is rejected exactly where it keeps the width (rule R82). -/
theorem Controller.functionSetRejected_of_changes {c : Controller} {dl n f : Bool} (hf : c.firstCmd = false)
    (hc : LineCount.ofBit n ≠ c.numLines ∨ GlyphHeight.ofBit f ≠ c.glyphH) :
    c.functionSetRejected dl n f = decide (DataLen.ofBit dl = c.dataLen) := by
  rw [Bool.eq_iff_iff, Controller.functionSetRejected_iff, decide_eq_true_iff]
  exact ⟨fun ⟨_, hl, _⟩ => hl, fun hl => ⟨hf, hl, hc.symm⟩⟩

/-- A state of the invariant in 4-bit mode that has run its first command: reset, with these two elements changed. -/
def fourBitReset : State :=
  State.reset.onCtl fun c => { c with dataLen := .four, firstCmd := false }

theorem fourBitReset_inv : fourBitReset.Inv :=
  { invariantHoldsAtReset.1 with phase_high := fun _ => rfl }

/-- Settles O34: the pair runs the command in 4-bit mode, the byte in 8-bit mode. A command that changes the lines or the
height is rejected exactly where it keeps the width, so each mode rejects the command that names it. -/
theorem functionSetBreaksTheNibbleLaw : Obligations.FunctionSetBreaksTheNibbleLaw := by
  refine ⟨⟨fourBitReset, fourBitReset_inv, rfl, rfl, rfl, rfl⟩, ?_⟩
  intro s v dl n f hl hp hv hf hc
  obtain ⟨s1, hfirst, hpair⟩ := transact_commandNibbles hl hp v
  have hwhole := transact_eight (s := { s with ctl := { s.ctl with dataLen := .eight, phase := .high } })
    (rs := false) (rw := false) (db := v) rfl
  rw [hv] at hpair
  rw [decodeBus, hv] at hwhole
  have hpairRejected := Controller.functionSetRejected_of_changes (dl := dl) hf hc
  have hwholeRejected := Controller.functionSetRejected_of_changes (dl := dl)
    (c := { s.ctl with dataLen := .eight, phase := .high }) hf hc
  rw [hl] at hpairRejected
  cases dl with
  | true =>
    refine ⟨s1, _, _, hfirst, hpair.trans (exec_functionSet_accepted hpairRejected),
      hwhole.trans (exec_functionSet_rejected hwholeRejected), ?_, ?_, rfl, rfl⟩ <;> rintro _ rfl
    · exact ⟨rfl, rfl, rfl, rfl, rfl⟩
    · exact ⟨rfl, rfl, rfl, rfl, rfl⟩
  | false =>
    refine ⟨s1, _, _, hfirst, hpair.trans (exec_functionSet_rejected hpairRejected),
      hwhole.trans (exec_functionSet_accepted hwholeRejected), ?_, ?_, hl, rfl⟩ <;> rintro _ rfl
    · exact ⟨rfl, rfl, rfl, rfl, rfl⟩
    · exact ⟨rfl, rfl, rfl, rfl, rfl⟩

end Sys2Proof.Machine
end

section
/-! PROOFS. The data channel and the status read (41_data_channel.md). While busy, a data operation comes to the busy
gate's drop, in its own meaning and in the interface alike. Otherwise it is accepted, an equation each for the write and
for the read in 8-bit mode, and the write is read back through these two. -/

namespace Sys2Proof.Machine

/-! ### The busy gate -/

/-- Settles O23: both operations begin with the busy gate. -/
theorem busyDataOperationsAreDropped : Obligations.BusyDataOperationsAreDropped :=
  fun _ hb => ⟨fun _ => if_pos hb, if_pos hb⟩

/-- A data-channel transaction while busy ends at the gate, after the level check and before the width (rule R100). -/
theorem transact_data_busy {s : State} (hb : s.ctl.busy = true) (rw : Bool) (db : Byte) :
    transact true rw db s = .next ((s.onCtl fun c => c.levelCheck true rw).dropData rw db) := by
  simp [transact, multiplex, hb]

/-- Settles O32: the level check restarts the pairing in 4-bit mode alone, and the drop is that of the direction. -/
theorem busyGateDropsTheTransaction : Obligations.BusyGateDropsTheTransaction := by
  intro rw db s hb
  have hlevel : s.ctl.levelCheck true rw = { s.ctl with
      lastRs := true, lastRw := rw,
      phase :=
        if s.ctl.dataLen = .four ∧ (s.ctl.lastRs = false ∨ rw ≠ s.ctl.lastRw) then .high else s.ctl.phase } := by
    simp [Controller.levelCheck]
  rw [transact_data_busy hb, State.onCtl, hlevel]
  cases rw <;> rfl

/-! ### The status read -/

/-- Bits 6:0 of the status byte are AC (rule R70). -/
theorem Controller.status_address (c : Controller) : c.status.extractLsb' 0 7 = c.ac := by
  refine BitVec.eq_of_getLsbD_eq fun k hk => ?_
  simp only [Controller.status]
  interval_cases k <;> cases c.busy <;> simp

/-- Bit 7 of the status byte is the busy flag (rule R70). -/
theorem Controller.status_busy (c : Controller) : c.status.getLsbD 7 = c.busy := by
  simp only [Controller.status]
  cases c.busy <;> simp

theorem exec_statusRead_eight {s : State} (h : s.ctl.dataLen = .eight) :
    exec .statusRead s = .next (s.answer (.byte s.ctl.status)) := by
  simp [exec, execStatusRead, h]

/-- Settles O26: the whole status byte is the answer, and answering changes the reply alone. -/
theorem statusReadReturnsBusyAndAddress : Obligations.StatusReadReturnsBusyAndAddress :=
  fun s h => ⟨s.ctl.status, exec_statusRead_eight h, s.ctl.status_busy, s.ctl.status_address⟩

/-! ### Accepted data operations -/

/-- `DR <- v; DataWrite()` from a valid AC and a shift on the ring: the moves are to the neighbours on the two rings
(rules R92, R93). -/
theorem Controller.storeData_eq_ring {c : Controller} {ring : Nat} (hac : c.acValid = true) (hs : c.dispShift < ring)
    (v : Byte) :
    c.storeData ring v =
      { c with
        ddram := (c.storeData ring v).ddram
        cgram := (c.storeData ring v).cgram
        dr := v
        ac := ringStep c.bank c.numLines c.direction c.ac
        dispShift := if c.shiftOn then ringShift ring c.direction c.dispShift else c.dispShift } := by
  rw [Controller.storeData_eq, Controller.updateAC_eq_ringStep hac, Controller.shiftDisplay_eq_ringShift hs]

/-- Settles O22: `storeData` changes the cell at AC alone, and its two moves are those on the rings. -/
theorem dataWriteStoresAtTheAddressCounter : Obligations.DataWriteStoresAtTheAddressCounter := by
  intro v s hi hb
  refine ⟨_, exec_dataWrite_accepted hi hb v, storeData_memRead hi.ddram_wf hi.cgram_wf _ v, ?_⟩
  rw [armBusy_onCtl]
  exact congrArg (fun c => { s with ctl := { c with busy := true, busyDeadline := s.busyUntil s.cfg.tMedium } })
    (Controller.storeData_eq_ring hi.ac_valid hi.shift_lt v)

/-- An accepted data read in a state of the invariant (rules R94, R96). -/
theorem exec_dataRead_accepted {s : State} (hi : s.Inv) (hb : s.ctl.busy = false) :
    exec .dataRead s = .next (s.loadData (s.ctl.memRead s.ctl.bank s.ctl.ac.toNat)) := by
  simp [exec, execDataRead, hb, hi.cellExists]

/-- The side effects of a completed data read from a valid AC (rule R94). -/
theorem finishRead_eq_ringStep {s : State} (hac : s.ctl.acValid = true) :
    s.finishRead = { s with ctl := { s.ctl with
      ac := ringStep s.ctl.bank s.ctl.numLines s.ctl.direction s.ctl.ac,
      busy := true, busyDeadline := s.busyUntil s.cfg.tMedium } } := by
  rw [State.finishRead, armBusy_onCtl, Controller.updateAC_eq_ringStep hac]

/-- Settles O24: in 8-bit mode the one transaction answers with the cell's byte and finishes the read. -/
theorem dataReadReturnsTheCell : Obligations.DataReadReturnsTheCell := by
  intro s hi hb h8
  rw [exec_dataRead_accepted hi hb, State.loadData, h8, finishRead_eq_ringStep hi.ac_valid]
  rfl

/-! ### A read after a write -/

/-- The command that sets AC to an address of a bank (rules R79, R80). -/
def addressCommand (b : Bank) (a : BitVec 7) : Instr :=
  match b with
  | .ddram => .setDdramAddr a
  | .cgram => .setCgramAddr (a.truncate 6)

/-- No correction changes a valid address (rules R41 to R43). -/
theorem correctedAddress_of_valid {b : Bank} {n : LineCount} {a : BitVec 7} (h : addressValid b n a = true) :
    correctedAddress b n a = a := by
  cases b with
  | cgram =>
    have ha : a.toNat ≤ 0x3F := of_decide_eq_true h
    exact BitVec.eq_of_toNat_eq (Nat.and_two_pow_sub_one_of_lt_two_pow (n := 6) (by omega))
  | ddram =>
    cases n with
    | one => exact if_pos (of_decide_eq_true h)
    | two =>
      have ha : a.toNat ≤ 0x27 ∨ 0x40 ≤ a.toNat ∧ a.toNat ≤ 0x67 := by simpa [addressValid] using h
      rcases ha with hlow | ⟨h40, hhigh⟩
      · exact if_pos hlow
      · exact (if_neg (by omega)).trans ((if_neg (by omega)).trans (if_pos hhigh))

/-- Setting a valid address leaves AC at that address in its bank (rules R79, R80). -/
theorem exec_addressCommand {s : State} {b : Bank} {a : BitVec 7} (h : addressValid b s.ctl.numLines a = true) :
    exec (addressCommand b a) s = .next { s with ctl := { s.ctl with
      bank := b, ac := a, busy := true, busyDeadline := s.busyUntil s.cfg.tShort, firstCmd := false } } := by
  cases b with
  | ddram => rw [addressCommand, setDdramAddrCorrectsTheAddress, correctedAddress_of_valid h]
  | cgram =>
    have ha : a.toNat ≤ 0x3F := of_decide_eq_true h
    have hround : (a.truncate 6).zeroExtend 7 = a := by bv_omega
    rw [addressCommand, exec_setCgramAddr, hround]

/-- Settles O28: the write stores at its AC, the address command brings AC and the bank back there, and neither it nor
the busy expiry changes a cell. -/
theorem dataReadAfterDataWrite : Obligations.DataReadAfterDataWrite := by
  intro v s hi hb h8
  obtain ⟨t, ht, hcell, hframe⟩ := dataWriteStoresAtTheAddressCounter v s hi hb
  have hlines : t.ctl.numLines = s.ctl.numLines := by rw [hframe]
  have hwidth : t.ctl.dataLen = .eight := by rw [hframe]; exact h8
  have hu := exec_addressCommand (s := t) (b := s.ctl.bank) (a := s.ctl.ac) (hlines ▸ hi.ac_valid)
  have hti : t.Inv := exec_inv hi (by simp) ht
  have hui := exec_inv hti (by cases s.ctl.bank <;> simp [addressCommand]) hu
  refine ⟨t, _, _, ht, hu, dataReadReturnsTheCell _ (hui.fire .busy) rfl hwidth, ?_⟩
  exact congrArg (fun x => some (Reply.byte x)) ((hcell _ _).trans (if_pos ⟨rfl, rfl⟩))

end Sys2Proof.Machine
end

section
/-! PROOFS. The three-line interface (rules R109 to R112). A setter writes its latch alone, and a transaction neither
reads nor writes the latches, so the calls of a transaction move them around it and leave the rest as it is. -/

namespace Sys2Proof.Machine

/-- Settles O36: each of these deliveries is one update, and a `latch` call at the level of E has no edge. -/
theorem threeLineSettersOnlyRecord : Obligations.ThreeLineSettersOnlyRecord := by
  intro s
  refine ⟨fun _ => rfl, fun _ => rfl, fun _ => rfl, ?_, rfl⟩
  show latch s.ctl.eLevel s = .next s
  cases he : s.ctl.eLevel <;> simp [latch, he]

/-! ### Several calls -/

theorem andThen_andThen (o : Host.Outcome State Fault Refusal) (f g : State → State) :
    andThen (andThen o f) g = andThen o fun s => g (f s) := by
  cases o <;> rfl

theorem andThen_congr {o : Host.Outcome State Fault Refusal} {f g : State → State}
    (h : ∀ t, o = .next t → f t = g t) : andThen o f = andThen o g := by
  cases o with
  | next t => exact congrArg Host.Outcome.next (h t rfl)
  | fault | refused => rfl

theorem deliverAll_cons_next {e : HostEvent} {es : List HostEvent} {s t : State} (h : deliver e s = .next t) :
    deliverAll (e :: es) s = deliverAll es t := by
  simp [deliverAll, h]

theorem deliverAll_singleton (e : HostEvent) (s : State) : deliverAll [e] s = deliver e s := by
  unfold deliverAll
  cases deliver e s <;> rfl

/-- After an event that goes on by `f`, further ones that complete make one delivery that goes on to where they end. -/
theorem deliverAll_cons_andThen {e : HostEvent} {es : List HostEvent} {s : State}
    {o : Host.Outcome State Fault Refusal} {f g : State → State} (h : deliver e s = andThen o f)
    (hes : ∀ t, deliverAll es (f t) = .next (g t)) : deliverAll (e :: es) s = andThen o g := by
  rw [deliverAll, h]
  cases o with
  | next t => exact hes t
  | fault | refused => rfl

/-! ### The edges -/

/-- The falling edge of E in a write makes the transaction of the latched levels and byte (rule R111). -/
theorem latch_fall_write (rs : Bool) (v : Byte) (s : State) :
    latch false (s.withPins rs false v true) = andThen (transact rs false v s) (State.withPins rs false v false) := by
  show andThen (transact rs false v (s.withPins rs false v true)) _ = _
  rw [transact_withPins, andThen_andThen]
  rfl

/-- The rising edge of E in a read makes the transaction of the latched levels, and its byte goes to `db_out`
(rule R110). -/
theorem latch_rise_read (rs : Bool) (v : Byte) (s : State) :
    latch true (s.withPins rs true v false) =
      andThen (transact rs true 0x00 s) fun t => (t.withPins rs true v false).latchRead := by
  show andThen (transact rs true 0x00 (s.withPins rs true v false)) _ = _
  rw [transact_withPins, andThen_andThen]

/-- After the rising edge of a read, `getDataBus` answers with the byte that the transaction had answered with, and the
falling edge only records the level (rules R110 to R112). -/
theorem deliverAll_after_rise_read {s : State} (hrw : s.ctl.rwIn = true) :
    deliverAll [.getDataBus, .latch false] s.latchRead = .next { s with
      reply := some (.byte (Reply.toByte s.reply)),
      ctl := { s.ctl with dbOut := Reply.toByte s.reply, eLevel := false } } := by
  simp [deliverAll, deliver, latch, State.latchRead, State.answer, State.onCtl, hrw]

/-- A transaction leaves the latches at their values. -/
theorem transact_next_withPins {rs rw : Bool} {db : Byte} {s t : State} (h : transact rs rw db s = .next t) :
    t.withPins s.ctl.rsIn s.ctl.rwIn s.ctl.dbIn s.ctl.eLevel = t := by
  have hsame := transact_withPins rs rw db s s.ctl.rsIn s.ctl.rwIn s.ctl.dbIn s.ctl.eLevel
  rw [h] at hsame
  exact Host.Outcome.next.inj (hsame.symm.trans h)

/-- Settles O35: a write's transaction is that of the last call, a read's that of the third, after which `getDataBus`
answers with the byte that the transaction had answered with. -/
theorem threeLineCallsEqualBusTransactions : Obligations.ThreeLineCallsEqualBusTransactions := by
  intro rs v s he
  constructor
  · have hrise : deliver (.latch true) (s.withPins rs false v false) = .next (s.withPins rs false v true) := rfl
    have hset : deliverAll [.setRegisterSelect rs, .setReadWrite false, .setDataBus v, .latch true, .latch false] s =
        deliverAll [.latch true, .latch false] (s.withPins rs false v false) := by
      simp [deliverAll, deliver, State.withPins, State.onCtl, he]
    rw [hset, deliverAll_cons_next hrise, deliverAll_singleton]
    exact latch_fall_write rs v s
  · have hset : deliverAll [.setRegisterSelect rs, .setReadWrite true, .latch true, .getDataBus, .latch false] s =
        deliverAll [.latch true, .getDataBus, .latch false] (s.withPins rs true s.ctl.dbIn false) := by
      simp [deliverAll, deliver, State.withPins, State.onCtl, he]
    have hrise : deliver (.latch true) (s.withPins rs true s.ctl.dbIn false) = _ := latch_rise_read rs s.ctl.dbIn s
    rw [hset, deliverAll_cons_andThen hrise fun _ => deliverAll_after_rise_read rfl]
    refine andThen_congr fun t ht => ?_
    obtain ⟨w, hw⟩ := transact_read_answers ht
    have hdb : t.ctl.dbIn = s.ctl.dbIn := congrArg (·.ctl.dbIn) (transact_next_withPins ht).symm
    simp [State.withPins, Reply.toByte, hw, hdb]

end Sys2Proof.Machine
end

section
/-! PROOFS. The transactions of 4-bit mode (rules R101, R103 to R106). The nibbles that the model masks and shifts are
the upper and the lower four bits of a byte; with that, each transaction is the law of its phase. -/

namespace Sys2Proof.Machine

/-! ### Nibbles -/

/-- What a first write transaction holds: the nibble on DB7:4, zeros below (rules R57, R103). -/
theorem firstNibble_eq_append (db : Byte) : firstNibble db = db.extractLsb' 4 4 ++ 0#4 := by
  refine BitVec.eq_of_getLsbD_eq fun k hk => ?_
  simp only [firstNibble, BitVec.getLsbD_append]
  interval_cases k <;> simp

/-- What a second write transaction completes: the held nibble above the one on DB7:4 (rules R57, R103). -/
theorem secondNibble_eq_append (reg db : Byte) : secondNibble reg db = reg.extractLsb' 4 4 ++ db.extractLsb' 4 4 := by
  refine BitVec.eq_of_getLsbD_eq fun k hk => ?_
  simp only [secondNibble, BitVec.getLsbD_append]
  interval_cases k <;> simp

theorem getLsbD_readHigh (v : Byte) (k : Nat) : (readHigh v).getLsbD k = (decide (4 ≤ k) && v.getLsbD k) := by
  by_cases hk : k < 8
  · simp only [readHigh]
    interval_cases k <;> simp
  · simp [BitVec.getLsbD_of_ge _ _ (Nat.le_of_not_lt hk)]

theorem getLsbD_readLow (v : Byte) (k : Nat) :
    (readLow v).getLsbD k = (decide (4 ≤ k) && decide (k < 8) && v.getLsbD (k - 4)) := by
  by_cases hk : k < 8
  · simp only [readLow]
    interval_cases k <;> simp
  · simp [BitVec.getLsbD_of_ge _ _ (Nat.le_of_not_lt hk), hk]

/-- The first nibble of a read: bits 7:4 on DB7:4, zeros below (rule R57). -/
theorem readHigh_nibbles (v : Byte) :
    (readHigh v).extractLsb' 0 4 = 0 ∧ (readHigh v).extractLsb' 4 4 = v.extractLsb' 4 4 := by
  constructor <;> ext k hk
  · simp [getLsbD_readHigh, Nat.not_le.2 hk]
  · simp [getLsbD_readHigh]

/-- The second nibble of a read: bits 3:0 on DB7:4, zeros below (rule R57). -/
theorem readLow_nibbles (v : Byte) :
    (readLow v).extractLsb' 0 4 = 0 ∧ (readLow v).extractLsb' 4 4 = v.extractLsb' 0 4 := by
  constructor <;> ext k hk
  · simp [getLsbD_readLow, Nat.not_le.2 hk]
  · have hlane : 4 + k < 8 := by omega
    rw [BitVec.getElem_extractLsb', BitVec.getElem_extractLsb', getLsbD_readLow]
    simp [hlane]

/-- The high phase of a status read is the first nibble of the status byte (rule R71). -/
theorem Controller.statusHigh_eq_readHigh (c : Controller) : c.statusHigh = readHigh c.status := by
  refine BitVec.eq_of_getLsbD_eq fun k hk => ?_
  simp only [Controller.statusHigh, Controller.status, readHigh]
  interval_cases k <;> cases c.busy <;> simp

/-- The low phase of a status read is the second nibble of the status byte (rule R71). -/
theorem Controller.statusLow_eq_readLow (c : Controller) : c.statusLow = readLow c.status := by
  refine BitVec.eq_of_getLsbD_eq fun k hk => ?_
  simp only [Controller.statusLow, Controller.status, readLow]
  interval_cases k <;> cases c.busy <;> simp

/-- The first nibble of the status byte holds BF and AC[6:4] (rule R71). -/
theorem Controller.readHigh_status (c : Controller) :
    (readHigh c.status).getLsbD 7 = c.busy ∧ (readHigh c.status).extractLsb' 4 3 = c.ac.extractLsb' 4 3 := by
  constructor
  · rw [getLsbD_readHigh, c.status_busy]
    rfl
  · rw [← c.status_address]
    ext k hk
    simp [getLsbD_readHigh]

/-- The second nibble of the status byte holds AC[3:0] (rule R71). -/
theorem Controller.readLow_status (c : Controller) :
    (readLow c.status).extractLsb' 4 4 = c.ac.extractLsb' 0 4 := by
  rw [(readLow_nibbles _).2, ← c.status_address]
  ext k hk
  simp

/-! ### Reads -/

theorem loadData_high {s : State} (h4 : s.ctl.dataLen = .four) (hp : s.ctl.phase = .high) (v : Byte) :
    s.loadData v = (s.onCtl fun c => { c with phase := .low }).answer (.byte (readHigh v)) := by
  simp [State.loadData, h4, hp]

/-- The second transaction of a data read from a valid AC (rule R106). -/
theorem loadData_low {s : State} (hac : s.ctl.acValid = true) (h4 : s.ctl.dataLen = .four) (hp : s.ctl.phase = .low)
    (v : Byte) :
    s.loadData v = { s with
      reply := some (.byte (readLow v)),
      ctl := { s.ctl with
        phase := .high,
        ac := ringStep s.ctl.bank s.ctl.numLines s.ctl.direction s.ctl.ac,
        busy := true, busyDeadline := s.busyUntil s.cfg.tMedium } } := by
  have hfinish := finishRead_eq_ringStep (s := s.onCtl fun c => { c with phase := .high }) hac
  have hstep : s.loadData v = ((s.onCtl fun c => { c with phase := .high }).finishRead).answer (.byte (readLow v)) := by
    simp [State.loadData, h4, hp]
  rw [hstep, hfinish]
  rfl

/-- Settles O25: the byte at AC goes out in the model's two nibbles, and the second one finishes the read. -/
theorem dataReadNibbles : Obligations.DataReadNibbles := by
  intro s hi hb h4
  rw [exec_dataRead_accepted hi hb]
  cases hp : s.ctl.phase with
  | high =>
    rw [loadData_high h4 hp]
    exact ⟨_, fun _ => rfl, (nomatch ·), readHigh_nibbles _⟩
  | low =>
    rw [loadData_low hi.ac_valid h4 hp]
    exact ⟨_, (nomatch ·), fun _ => rfl, readLow_nibbles _⟩

theorem exec_statusRead_high {s : State} (h4 : s.ctl.dataLen = .four) (hp : s.ctl.phase = .high) :
    exec .statusRead s =
      .next ((s.onCtl fun c => { c with phase := .low }).answer (.byte (readHigh s.ctl.status))) := by
  simp [exec, execStatusRead, h4, hp, Controller.statusHigh_eq_readHigh]

theorem exec_statusRead_low {s : State} (h4 : s.ctl.dataLen = .four) (hp : s.ctl.phase = .low) :
    exec .statusRead s =
      .next ((s.onCtl fun c => { c with phase := .high }).answer (.byte (readLow s.ctl.status))) := by
  simp [exec, execStatusRead, h4, hp, Controller.statusLow_eq_readLow]

/-- Settles O27: the nibbles are those of the status byte, whose bit 7 is busy and whose bits 6:0 are AC. -/
theorem statusReadNibbles : Obligations.StatusReadNibbles := by
  intro s h4
  cases hp : s.ctl.phase with
  | high =>
    exact ⟨_, exec_statusRead_high h4 hp, (readHigh_nibbles _).1, fun _ => s.ctl.readHigh_status, (nomatch ·)⟩
  | low =>
    exact ⟨_, exec_statusRead_low h4 hp, (readLow_nibbles _).1, (nomatch ·), fun _ => s.ctl.readLow_status⟩

/-- Settles O60: a read runs in the state that the level check leaves, which in 4-bit mode has phase HIGH after a change
of level. -/
theorem stepRunsReadTransactionsInFourBitMode : Obligations.StepRunsReadTransactionsInFourBitMode := by
  intro s d rest t rs hc hu he h4 hb
  have hop : decodeBus rs true 0x00 = if rs then .dataRead else .statusRead := by cases rs <;> rfl
  rw [step_host hc hu, he, deliver, transact_read, hop]
  refine congrArg (exec _) ?_
  simp [State.onCtl, Controller.levelCheck, h4]

/-! ### Writes -/

/-- Settles O30: the first transaction and the second one, with their nibbles as the upper and lower four bits. -/
theorem stepPairsWriteNibbles : Obligations.StepPairsWriteNibbles := by
  intro s d rest t rs db hc hu he h4 hb
  rw [step_host hc hu, he]
  constructor
  · intro hfirst
    refine (transact_firstNibble (s := { s with now := t, inbox := rest, reply := none }) h4 hb
      (Controller.levelCheck_high h4 hfirst)).trans ?_
    rw [firstNibble_eq_append]
  · intro hsecond
    refine ⟨_, rfl, (transact_secondNibble (s := { s with now := t, inbox := rest, reply := none }) h4 hb
      (Controller.levelCheck_low hsecond)).trans ?_⟩
    cases rs <;> simp only [decodeBus, secondNibble_eq_append, if_true, Bool.false_eq_true, if_false]

end Sys2Proof.Machine
end

section
/-! PROOFS. Two nibbles and one byte (rule R113). The pair runs the operation that the whole byte runs, from a state
that differs in the width alone, and of the operations of a write only a Function Set looks at the width. -/

namespace Sys2Proof.Machine

/-! ### Operations in the two widths -/

/-- The interface width at this value. -/
def State.withWidth (l : DataLen) (s : State) : State :=
  { s with ctl := { s.ctl with dataLen := l } }

theorem encodeRw_decodeCommand (db : Byte) : encodeRw (decodeCommand db) = false := by
  refine decodeCommand_elim (motive := fun _ i => encodeRw i = false) ?_ ?_ ?_ ?_ ?_ ?_ ?_ ?_ ?_ db
  all_goals intros; rfl

/-- The operation of a transaction is a read or a write as RW says (rule R40). -/
theorem encodeRw_decodeBus (rs rw : Bool) (db : Byte) : encodeRw (decodeBus rs rw db) = rw := by
  cases rs <;> cases rw
  · exact encodeRw_decodeCommand db
  · rfl
  · rfl
  · rfl

theorem exec_dataWrite_idle {s : State} (hb : s.ctl.busy = false) (v : Byte) :
    exec (.dataWrite v) s =
      if s.ctl.cellExists s.cfg then
        .next ((s.onCtl fun c => c.storeData s.cfg.displayRing v).armBusy s.cfg.tMedium)
      else .fault (.noSuchCell s.ctl.bank s.ctl.ac) :=
  if_neg (Bool.eq_false_iff.1 hb)

theorem storeData_withWidth (l : DataLen) (s : State) (n : Nat) (v : Byte) :
    (s.withWidth l).onCtl (fun c => c.storeData n v) = (s.onCtl fun c => c.storeData n v).withWidth l := by
  simp only [State.withWidth, State.onCtl, Controller.storeData_eq]
  cases hb : s.ctl.bank <;> cases hs : s.ctl.shiftOn <;>
    simp [Controller.memWrite, Controller.updateAC, Controller.setAC, Controller.shiftDisplay, hb]

/-- No operation of a write but a Function Set depends on the width or changes it. -/
theorem exec_withWidth (l : DataLen) {i : Instr} (s : State) (hw : encodeRw i = false)
    (hf : ∀ dl n f, i ≠ .functionSet dl n f) : exec i (s.withWidth l) = andThen (exec i s) (State.withWidth l) := by
  cases i with
  | functionSet dl n f => exact absurd rfl (hf dl n f)
  | statusRead | dataRead => cases hw
  | cursorDisplayShift sc rl => cases sc <;> rfl
  | dataWrite v =>
    cases hb : s.ctl.busy with
    | true =>
      rw [(busyDataOperationsAreDropped s hb).1 v, (busyDataOperationsAreDropped (s.withWidth l) hb).1 v]
      rfl
    | false =>
      rw [exec_dataWrite_idle hb, exec_dataWrite_idle (s := s.withWidth l) hb, storeData_withWidth]
      by_cases hc : s.ctl.cellExists s.cfg = true
      · rw [if_pos hc]
        exact if_pos hc
      · rw [if_neg hc]
        exact if_neg hc
  | null | clearDisplay | returnHome | entryModeSet | displayControl | setCgramAddr | setDdramAddr => rfl

/-- A Function Set that is accepted in both widths does not depend on the width. -/
theorem exec_functionSet_withWidth {dl n f : Bool} {s : State} (l : DataLen)
    (ha : s.ctl.firstCmd = true ∨ (LineCount.ofBit n = s.ctl.numLines ∧ GlyphHeight.ofBit f = s.ctl.glyphH)) :
    exec (.functionSet dl n f) (s.withWidth l) = exec (.functionSet dl n f) s := by
  have haccepted (k : DataLen) : (s.withWidth k).ctl.functionSetRejected dl n f = false :=
    Controller.functionSetRejected_eq_false_iff.2 (ha.imp_right .inr)
  rw [exec_functionSet_accepted (haccepted l), exec_functionSet_accepted (s := s) (haccepted s.ctl.dataLen)]
  rfl

/-- A Function Set, accepted or not, completes and leaves IR and DR as they are. -/
theorem exec_functionSet_registers (dl n f : Bool) (s : State) :
    ∃ t, exec (.functionSet dl n f) s = .next t ∧ t.ctl.ir = s.ctl.ir ∧ t.ctl.dr = s.ctl.dr := by
  cases h : s.ctl.functionSetRejected dl n f with
  | true => exact ⟨_, exec_functionSet_rejected h, rfl, rfl⟩
  | false => exact ⟨_, exec_functionSet_accepted h, rfl, rfl⟩

/-- Up to the width, an operation of a write does the same in both widths, unless it is a Function Set that one of them
rejects (rule R82). -/
theorem exec_withWidth_erased {i : Instr} {s : State} (hw : encodeRw i = false)
    (ha : ∀ dl n f, i = .functionSet dl n f →
      s.ctl.firstCmd = true ∨ (LineCount.ofBit n = s.ctl.numLines ∧ GlyphHeight.ofBit f = s.ctl.glyphH))
    (l l' : DataLen) :
    andThen (exec i (s.withWidth l)) (State.withWidth l') = andThen (exec i s) (State.withWidth l') := by
  by_cases hf : ∃ dl n f, i = .functionSet dl n f
  · obtain ⟨dl, n, f, rfl⟩ := hf
    rw [exec_functionSet_withWidth l (ha dl n f rfl)]
  · rw [exec_withWidth l s hw fun dl n f hi => hf ⟨dl, n, f, hi⟩, andThen_andThen]
    rfl

/-- An operation of a write leaves the same IR and DR in both widths. -/
theorem exec_withWidth_registers {i : Instr} {s : State} (hw : encodeRw i = false) (l : DataLen)
    (g : Byte → Byte → State) :
    andThen (exec i (s.withWidth l)) (fun u => g u.ctl.ir u.ctl.dr) =
      andThen (exec i s) (fun u => g u.ctl.ir u.ctl.dr) := by
  by_cases hf : ∃ dl n f, i = .functionSet dl n f
  · obtain ⟨dl, n, f, rfl⟩ := hf
    obtain ⟨t, ht, hir, hdr⟩ := exec_functionSet_registers dl n f s
    obtain ⟨u, hu, hir', hdr'⟩ := exec_functionSet_registers dl n f (s.withWidth l)
    rw [ht, hu, andThen, andThen, hir, hdr, hir', hdr']
    rfl
  · rw [exec_withWidth l s hw fun dl n f hi => hf ⟨dl, n, f, hi⟩, andThen_andThen]
    rfl

/-- A data write overwrites what DR held (rule R92). -/
theorem exec_dataWrite_setDr {s : State} (hb : s.ctl.busy = false) (v x : Byte) :
    exec (.dataWrite v) { s with ctl := { s.ctl with dr := x } } = exec (.dataWrite v) s := by
  rw [exec_dataWrite_idle hb, exec_dataWrite_idle (s := { s with ctl := { s.ctl with dr := x } }) hb]
  rfl

/-! ### The transactions of a byte -/

/-- The state in which a write transaction of the byte `v` runs its operation: the levels are recorded, the phase is
HIGH, and a command is in IR (rules R101 to R104). -/
def State.byteTaken (rs : Bool) (v : Byte) (s : State) : State :=
  { s with ctl := { s.ctl with
      lastRs := rs, lastRw := false, phase := .high, ir := if rs then s.ctl.ir else v } }

/-- The two nibble transactions of a byte, at any two times, run its operation at the second (rules R103, R104). -/
theorem transact_nibblePair {s : State} {rs : Bool} (hl : s.ctl.dataLen = .four) (hb : rs = true → s.ctl.busy = false)
    (hp : s.ctl.phase = .high ∨ rs ≠ s.ctl.lastRs ∨ s.ctl.lastRw = true) (t1 t2 : Time) (v : Byte) :
    ∃ s1, transact rs false (v &&& 0xF0) { s with now := t1 } = .next s1 ∧
      transact rs false ((v <<< 4) &&& 0xF0#8) { s1 with now := t2 } =
        exec (decodeBus rs false v) (State.byteTaken rs v { s with now := t2 }) := by
  refine ⟨_, transact_firstNibble (s := { s with now := t1 }) hl hb (Controller.levelCheck_high hl hp), ?_⟩
  rw [transact_secondNibble (rs := rs) (by exact hl) (by exact hb) (Controller.levelCheck_low ⟨rfl, rfl, rfl⟩)]
  cases rs with
  | false => simp only [Bool.false_eq_true, if_false, secondNibble_lanes, State.byteTaken]
  | true =>
    simp only [if_true, secondNibble_lanes, decodeBus]
    exact exec_dataWrite_setDr (s := State.byteTaken true v { s with now := t2 }) (hb rfl) v v

/-- The 8-bit transaction of a byte runs its operation too, in that width (rule R102). -/
theorem transact_wholeByte (rs : Bool) (v : Byte) (s : State) :
    transact rs false v { s with ctl := { s.ctl with dataLen := .eight, phase := .high } } =
      exec (decodeBus rs false v) ((s.byteTaken rs v).withWidth .eight) := by
  rw [transact_eight rfl]
  cases rs <;> rfl

/-- Settles O33: both run the same operation, from states that differ in the width alone. -/
theorem nibblePairEqualsByteWrite : Obligations.NibblePairEqualsByteWrite := by
  intro s t1 t2 rs v hl hb hp
  obtain ⟨s1, hfirst, hpair⟩ := transact_nibblePair hl hb hp t1 t2 v
  have hwhole := transact_wholeByte rs v { s with now := t2 }
  have hw : encodeRw (decodeBus rs false v) = false := encodeRw_decodeBus rs false v
  refine ⟨s1, _, _, hfirst, hpair.symm, hwhole.symm, ?_, fun ha => ?_⟩
  · exact (exec_withWidth_registers hw .eight fun ir dr => { s with ctl := { s.ctl with ir := ir, dr := dr } }).symm
  · refine (exec_withWidth_erased hw (fun dl n f hi => ?_) .eight .eight).symm
    cases rs with
    | false => exact ha rfl dl n f hi
    | true => cases hi

end Sys2Proof.Machine
end

section
/-! PROOFS. The picture (rules R114 to R124): what the renderer reads, the shape of the buffer, what each cell shows,
and which cell shows an address. -/

namespace Sys2Proof.Machine

/-! ### The sizes the statements write out -/

theorem LineCount.toNat_eq_ite (n : LineCount) : n.toNat = if n = .one then 1 else 2 := by
  cases n <;> rfl

theorem GlyphHeight.toNat_eq_ite (h : GlyphHeight) : h.toNat = if h = .eight then 8 else 10 := by
  cases h <;> rfl

theorem GlyphHeight.toNat_eq_lastRow_add_one (h : GlyphHeight) : h.toNat = (if h = .eight then 7 else 9) + 1 := by
  cases h <;> rfl

/-! ### What the renderer reads -/

/-- The elements of the controller that `render()` names (rule R114); every other element has its reset value. -/
def Controller.shown (c : Controller) : Controller :=
  { Controller.atReset Config.default 0 with
    ddram := c.ddram, cgram := c.cgram, ac := c.ac, numLines := c.numLines, glyphH := c.glyphH,
    dispShift := c.dispShift, displayOn := c.displayOn, cursorOn := c.cursorOn, blinkOn := c.blinkOn,
    blinkPhase := c.blinkPhase }

/-- The parameters that `render()` reads (rules R5, R16, R116, R122); every other one has its default. -/
def shownParameters (cfg : Config) : Config :=
  { Config.default with variant := cfg.variant, glyphFullRow := cfg.glyphFullRow, displayRing := cfg.displayRing }

theorem render_shown (cfg : Config) (c : Controller) : render (shownParameters cfg) c.shown = render cfg c := rfl

/-- Settles O45: the picture is that of the elements named, and they are equal. -/
theorem renderReadsOnlyWhatItNames : Obligations.RenderReadsOnlyWhatItNames := by
  refine ⟨fun cfg cfg' c c' hvariant hfull hring hon hlines hheight hshift hddram hcgram hac hcursor hblink hphase =>
    ?_, fun s => rfl⟩
  have hcfg : shownParameters cfg = shownParameters cfg' := by simp only [shownParameters, hvariant, hfull, hring]
  have hctl : c.shown = c'.shown := by
    simp only [Controller.shown, hon, hlines, hheight, hshift, hddram, hcgram, hac, hcursor, hblink, hphase]
  rw [← render_shown, hcfg, hctl, render_shown]

/-! ### The shape of the buffer -/

theorem length_render (cfg : Config) (c : Controller) : (render cfg c).length = c.numLines.toNat := by
  simp [render]

theorem length_of_mem_render {cfg : Config} {c : Controller} {cells : List (List Byte)} (h : cells ∈ render cfg c) :
    cells.length = c.numLines.cells cfg.displayRing := by
  obtain ⟨l, -, rfl⟩ := List.mem_map.1 h
  simp

theorem exists_renderCell_of_mem {cfg : Config} {c : Controller} {cells : List (List Byte)} {rows : List Byte}
    (hcells : cells ∈ render cfg c) (hrows : rows ∈ cells) : ∃ l p, rows = renderCell cfg c l p := by
  obtain ⟨l, -, rfl⟩ := List.mem_map.1 hcells
  obtain ⟨p, -, rfl⟩ := List.mem_map.1 hrows
  exact ⟨l, p, rfl⟩

theorem length_renderCell (cfg : Config) (c : Controller) (l p : Nat) : (renderCell cfg c l p).length = 16 := by
  simp [renderCell]

theorem getElem?_renderCell {r : Nat} (hr : r < 16) (cfg : Config) (c : Controller) (l p : Nat) :
    (renderCell cfg c l p)[r]? = some (if c.displayOn then renderRow cfg c l p r else 0x00) := by
  simp [renderCell, hr]

theorem renderCell_of_off {c : Controller} (h : c.displayOn = false) (cfg : Config) (l p : Nat) :
    renderCell cfg c l p = List.replicate 16 0x00 := by
  simp [renderCell, h]

/-- The rows from `glyph_h` on are zero (rule R121). -/
theorem renderRow_of_glyphH_le {c : Controller} {r : Nat} (h : c.glyphH.toNat ≤ r) (cfg : Config) (l p : Nat) :
    renderRow cfg c l p r = 0x00 :=
  if_pos h

/-- Settles O46: every cell of the buffer is a `renderCell`. -/
theorem renderBufferShape : Obligations.RenderBufferShape := by
  intro cfg c
  simp only [← LineCount.toNat_eq_ite, ← GlyphHeight.toNat_eq_ite]
  refine ⟨length_render cfg c, fun cells hcells => ⟨length_of_mem_render hcells, fun rows hrows => ?_⟩⟩
  obtain ⟨l, p, rfl⟩ := exists_renderCell_of_mem hcells hrows
  refine ⟨length_renderCell cfg c l p, fun hoff b hb => ?_, fun r hheight hr => ?_⟩
  · rw [renderCell_of_off hoff] at hb
    exact List.eq_of_mem_replicate hb
  · rw [getElem?_renderCell hr, renderRow_of_glyphH_le hheight, ite_self]

/-! ### What a glyph row shows -/

/-- A glyph row of a cell inside the buffer, with the display on (rules R115, R116, R121, R124). -/
theorem render_row_of_on {cfg : Config} {c : Controller} {l p r : Nat} (hon : c.displayOn = true)
    (hl : l < c.numLines.toNat) (hp : p < c.numLines.cells cfg.displayRing) (hr : r < c.glyphH.toNat) :
    (render cfg c).row l p r = some (renderRow cfg c l p r) := by
  rw [render_row hl hp (hr.trans c.glyphH.toNat_lt_sixteen), if_pos hon]

/-- Where neither the block nor the underline covers a glyph row, it is the glyph's own, at AC too (rules R121 to
R123). -/
theorem renderRow_of_uncovered {cfg : Config} {c : Controller} {r : Nat} (hr : r < c.glyphH.toNat)
    (hblock : c.blockShown = false) (hline : c.cursorOn = false ∨ r + 1 ≠ c.glyphH.toNat) (l p : Nat) :
    renderRow cfg c l p r = glyphRow cfg c (c.memRead .ddram (c.cellAddress cfg.displayRing l p)) r := by
  rcases hline with h | h <;> simp [renderRow, hblock, h, Nat.not_le.2 hr]

/-- The block covers every glyph row of the cursor cell (rule R123). -/
theorem renderRow_of_block {cfg : Config} {c : Controller} {l p r : Nat} (hr : r < c.glyphH.toNat)
    (hac : c.cellAddress cfg.displayRing l p = c.ac.toNat) (hblock : c.blockShown = true) :
    renderRow cfg c l p r = cfg.glyphFullRow := by
  simp [renderRow, hac, hblock, Nat.not_le.2 hr]

/-- The underline takes the last glyph row of the cursor cell, under the block or not (rules R122, R123). -/
theorem renderRow_of_underline {cfg : Config} {c : Controller} {l p r : Nat} (hr : c.glyphH.toNat = r + 1)
    (hac : c.cellAddress cfg.displayRing l p = c.ac.toNat) (hcursor : c.cursorOn = true) :
    renderRow cfg c l p r = cfg.glyphFullRow := by
  simp [renderRow, hac, hcursor, hr]

/-- The low 3 or 2 bits of a code select its CGRAM glyph (rule R119). -/
theorem cgBase_eq (h : GlyphHeight) (code : Byte) :
    cgBase h code = if h = .eight then code.toNat % 8 * 8 else code.toNat % 4 * 16 := by
  cases h with
  | eight => exact congrArg (· * 8) (Nat.and_two_pow_sub_one_eq_mod code.toNat 3)
  | ten => exact congrArg (· * 16) (Nat.and_two_pow_sub_one_eq_mod code.toNat 2)

/-- The code says where its glyph is stored: FONT from 0x10 on, else CGRAM (rules R118 to R120). -/
theorem glyphRow_eq (cfg : Config) (c : Controller) (code : Byte) (r : Nat) :
    glyphRow cfg c code r = if 0x10 ≤ code.toNat then cfg.font (BitVec.ofNat 12 (code.toNat * 16 + r))
      else if c.glyphH = .eight then c.memRead .cgram (code.toNat % 8 * 8 + r)
      else c.memRead .cgram (code.toNat % 4 * 16 + r) := by
  split_ifs with hcode hheight
  · exact glyphRow_font hcode
  · rw [glyphRow, if_pos (Nat.not_le.1 hcode), cgBase_eq, if_pos hheight]
  · rw [glyphRow, if_pos (Nat.not_le.1 hcode), cgBase_eq, if_neg hheight]

/-- Settles O47: an unmarked row is the glyph's own, and the code says where that is stored. -/
theorem renderShowsTheGlyphOfTheCode : Obligations.RenderShowsTheGlyphOfTheCode := by
  intro cfg c l p r
  simp only [← LineCount.toNat_eq_ite, ← GlyphHeight.toNat_eq_ite]
  intro hon hl hp hr hmark
  have hrow : renderRow cfg c l p r = glyphRow cfg c (c.memRead .ddram (c.cellAddress cfg.displayRing l p)) r := by
    rcases hmark with hne | ⟨hcursor, hblink⟩
    · exact renderRow_of_ne_ac hr hne
    · exact renderRow_of_uncovered hr (by simp [Controller.blockShown, hblink]) (.inl hcursor) l p
  refine ⟨_, rfl, ?_⟩
  rw [render_row_of_on hon hl hp hr, hrow, glyphRow_eq]
  rfl

/-- Settles O48: the block, the underline, and a row that neither covers, which is the row with both marks off. -/
theorem renderMarksTheCursorCell : Obligations.RenderMarksTheCursorCell := by
  intro cfg c l p
  simp only [← LineCount.toNat_eq_ite, ← GlyphHeight.toNat_eq_ite]
  intro hon hl hp hac
  refine ⟨fun hblink hphase r hr => ?_, fun hcursor => ?_, fun hblock r hr hline => ?_⟩
  · rw [render_row_of_on hon hl hp hr, renderRow_of_block hr hac (by simp [Controller.blockShown, hblink, hphase])]
  · have hlast := c.glyphH.toNat_eq_lastRow_add_one
    rw [render_row_of_on hon hl hp (by omega), renderRow_of_underline hlast hac hcursor]
  · have huncovered : c.blockShown = false := by
      rcases hblock with h | h <;> simp [Controller.blockShown, h]
    rw [render_row_of_on hon hl hp hr, renderRow_of_uncovered hr huncovered hline,
      render_row_of_on (c := { c with cursorOn := false, blinkOn := false }) hon hl hp hr,
      renderRow_of_uncovered (c := { c with cursorOn := false, blinkOn := false }) hr rfl (.inl rfl)]
    rfl

/-! ### Which cell shows an address -/

/-- Shifting a ring takes exactly one position to each position. -/
theorem existsUnique_shifted {L k : Nat} (hk : k < L) (s : Nat) :
    ∃ p < L, (p + s) % L = k ∧ ∀ p' < L, (p' + s) % L = k → p' = p := by
  have hs : s % L < L := Nat.mod_lt s (by omega)
  have hshift : (k + (L - s % L)) % L + s ≡ k [MOD L] :=
    calc (k + (L - s % L)) % L + s
      _ ≡ k + (L - s % L) + s % L [MOD L] := (Nat.mod_modEq _ _).add (Nat.mod_modEq s L).symm
      _ = k + L := by omega
      _ ≡ k [MOD L] := Nat.add_mod_right k L
  refine ⟨(k + (L - s % L)) % L, Nat.mod_lt _ (by omega), Eq.trans hshift (Nat.mod_eq_of_lt hk), fun p' hp' h => ?_⟩
  have hsame : p' + s ≡ (k + (L - s % L)) % L + s [MOD L] := (h.trans (Nat.mod_eq_of_lt hk).symm).trans hshift.symm
  exact (hsame.add_right_cancel' s).eq_of_lt_of_lt hp' (Nat.mod_lt _ (by omega))

/-- A valid DDRAM address is a position on one of the lines, which start 0x40 apart (rules R17, R117). -/
theorem exists_line_of_addressValid {n : LineCount} {a : BitVec 7} (h : addressValid .ddram n a = true) :
    ∃ l < n.toNat, ∃ k < n.cells 80, a.toNat = l * 0x40 + k := by
  cases n with
  | one => exact ⟨0, Nat.one_pos, a.toNat, Nat.lt_succ_of_le (of_decide_eq_true h), by omega⟩
  | two =>
    have ha : a.toNat ≤ 0x27 ∨ 0x40 ≤ a.toNat ∧ a.toNat ≤ 0x67 := by simpa [addressValid] using h
    rcases ha with hfirst | ⟨hlo, hhi⟩
    · exact ⟨0, Nat.two_pos, a.toNat, Nat.lt_succ_of_le hfirst, by omega⟩
    · exact ⟨1, Nat.one_lt_two, a.toNat - 0x40, show a.toNat - 0x40 < 40 by omega, by omega⟩

/-- The lines do not overlap: with two lines, each is shorter than the distance between their starts. -/
theorem line_position_inj {n : LineCount} {l l' k k' : Nat} (hl : l < n.toNat) (hl' : l' < n.toNat)
    (hk : k < n.cells 80) (hk' : k' < n.cells 80) (h : l * 0x40 + k = l' * 0x40 + k') : l = l' ∧ k = k' := by
  cases n <;> simp only [LineCount.toNat, LineCount.cells] at hl hl' hk hk' <;> omega

/-- Settles O49: the address has one line and one position on it, and the shift takes one cell to that position. -/
theorem everyValidAddressIsShownExactlyOnce : Obligations.EveryValidAddressIsShownExactlyOnce := by
  intro c a h
  obtain ⟨l, hl, k, hk, ha⟩ := exists_line_of_addressValid h
  obtain ⟨p, hp, hpk, hunique⟩ := existsUnique_shifted hk c.dispShift
  refine ⟨l, p, hl, hp, by rw [Controller.cellAddress, hpk, ha], fun l' p' hl' hp' h' => ?_⟩
  obtain ⟨hline, hpos⟩ := line_position_inj hl' hl (Nat.mod_lt _ (by omega)) hk (h'.trans ha)
  exact ⟨hline, hunique p' hp' hpos⟩

end Sys2Proof.Machine
end

section
/-! PROOFS. The two timers and the order of delivery (rules R133 to R141). A firing comes at its timer's own deadline and
changes that timer's elements alone; a host event comes where neither timer is due before it. At equal times the flag and
the count of the delivery decide, so both orders are runs. -/

namespace Sys2Proof.Machine

/-! ### What comes next -/

/-- The pending deadline of a timer (rules R31, R34). -/
def Controller.deadline (c : Controller) : Timer → Option Time
  | .busy => c.busyDeadline
  | .blink => some c.blinkDeadline

theorem deadline_of_upcoming {s : State} {k : Timer} {t : Time} (h : s.upcoming = .timer k t) :
    s.ctl.deadline k = some t := by
  revert h
  refine upcoming_elim (motive := fun u => u = .timer k t → s.ctl.deadline k = some t) ?blink ?busy ?host
  case blink => rintro - ⟨⟩; rfl
  case busy => rintro b hb - ⟨⟩; exact hb
  case host => rintro _ _ _ _ _ ⟨⟩

/-- A host event waits for its stamp, and no deadline is passed over for it (rule R141). -/
theorem order_of_upcoming_host {s : State} {d : Delivery} {rest : List Delivery} {t : Time}
    (h : s.upcoming = .host d rest t) :
    s.inbox = d :: rest ∧ t = max s.now d.time ∧ t ≤ s.ctl.blinkDeadline ∧
      ∀ b, s.ctl.busyDeadline = some b → t ≤ b := by
  revert h
  refine upcoming_elim (motive := fun u => u = .host d rest t → _) ?blink ?busy ?host
  case blink => rintro - ⟨⟩
  case busy => rintro _ _ - ⟨⟩
  case host => rintro _ _ hbox hblink hbusy ⟨⟩; exact ⟨hbox, rfl, hblink, hbusy⟩

/-- Settles O40: an event is delivered at the later of the present and its stamp. -/
theorem hostEventsComeAfterEarlierDeadlines : Obligations.HostEventsComeAfterEarlierDeadlines := by
  intro s d rest t h
  obtain ⟨hbox, rfl, hblink, hbusy⟩ := order_of_upcoming_host h
  exact ⟨hbox, le_max_left _ _, le_max_right _ _, hblink, hbusy⟩

/-! ### The firings -/

/-- A step that fires a timer. -/
theorem step_timer {s : State} {k : Timer} {t : Time} (hc : s.cfg.check = none) (hu : s.upcoming = .timer k t) :
    step s = .next (fire k { s with now := t, inbox := s.inboxAfter k t, reply := none }) := by
  simp only [step, hc, hu, State.process]

/-- Settles O10: the new deadline stands in place of the old one, and a busy expiry comes at the deadline that stands. -/
theorem armBusyReplacesThePendingDeadline : Obligations.ArmBusyReplacesThePendingDeadline :=
  fun s base => ⟨armBusy_onCtl s id base, fun _ hu => (deadline_eq_busyUntil s base).symm.trans (deadline_of_upcoming hu)⟩

/-- Settles O37: the expiry comes at the deadline, and its firing is the update stated. -/
theorem busyExpiryClearsBusyOnly : Obligations.BusyExpiryClearsBusyOnly :=
  fun _ _ hc hu => ⟨deadline_of_upcoming hu, step_timer hc hu⟩

theorem fire_blink (s : State) :
    fire .blink s = s.onCtl fun c =>
      { c with blinkPhase := !c.blinkPhase, blinkDeadline := c.blinkDeadline + s.cfg.tBlink } := by
  simp only [fire, Time.plus_eq]

theorem inboxAfter_blink_cons {s : State} {d : Delivery} {rest : List Delivery} (hbox : s.inbox = d :: rest) (t : Time) :
    s.inboxAfter .blink t =
      { d with blinkFirst := if max s.now d.time = t then d.blinkFirst - 1 else d.blinkFirst } :: rest := by
  simp only [State.inboxAfter, hbox, Time.later_eq]

/-- Settles O39: the firing comes at the deadline, and of the inbox it takes one firing off the next event's count. -/
theorem blinkFiringTogglesThePhase : Obligations.BlinkFiringTogglesThePhase := by
  intro s t hc hu
  refine ⟨(Option.some.inj (deadline_of_upcoming hu)).symm, ?_⟩
  rw [step_timer hc hu, fire_blink]
  cases hbox : s.inbox with
  | nil => simp only [State.inboxAfter, hbox, State.onCtl]
  | cons d rest => rw [inboxAfter_blink_cons hbox]; rfl

/-- Settles O38: `isBusy` answers with the flag that the status byte has in bit 7. -/
theorem isBusyReturnsTheStatusBit : Obligations.IsBusyReturnsTheStatusBit :=
  fun s => ⟨rfl, fun h8 => ⟨s.ctl.status, exec_statusRead_eight h8, s.ctl.status_busy⟩⟩

/-! ### The order at one time -/

/-- A deadline does not come before an event where it is later, or at the same time and not put first (rules R134,
R141). -/
theorem dueBefore_eq_false_iff {deadline t : Time} {first : Bool} :
    dueBefore deadline t first = false ↔ t < deadline ∨ t = deadline ∧ first = false := by
  rw [dueBefore, Bool.or_eq_false_iff, Time.before_false_iff, Bool.and_eq_false_imp, decide_eq_true_eq,
    le_iff_lt_or_eq]
  constructor
  · rintro ⟨hlt | rfl, hfirst⟩
    · exact .inl hlt
    · exact .inr ⟨rfl, hfirst rfl⟩
  · rintro (hlt | ⟨rfl, hfirst⟩)
    · exact ⟨.inl hlt, fun h => absurd h hlt.ne'⟩
    · exact ⟨.inr rfl, fun _ => hfirst⟩

theorem busyDue_eq_false {s : State} {t : Time} {first : Bool}
    (h : ∀ b, s.ctl.busyDeadline = some b → t < b ∨ t = b ∧ first = false) : s.busyDue t first = false := by
  unfold State.busyDue
  split
  · rfl
  · exact dueBefore_eq_false_iff.2 (h _ ‹_›)

theorem blinkDue_eq_false {s : State} {t : Time} {n : Nat}
    (h : t < s.ctl.blinkDeadline ∨ t = s.ctl.blinkDeadline ∧ n = 0) :
    dueBefore s.ctl.blinkDeadline t (decide (0 < n)) = false :=
  dueBefore_eq_false_iff.2 (by simpa using h)

/-- The next host event, stamped with no past time, in a machine whose configuration can be built. -/
structure State.Awaits (s : State) (d : Delivery) (rest : List Delivery) : Prop where
  cfg_ok : s.cfg.check = none
  inbox_eq : s.inbox = d :: rest
  now_le : s.now ≤ d.time

namespace State.Awaits

variable {s : State} {d : Delivery} {rest : List Delivery} (h : s.Awaits d rest)
include h

theorem upcoming_event (hbusy : s.busyDue d.time d.busyFirst = false)
    (hblink : dueBefore s.ctl.blinkDeadline d.time (decide (0 < d.blinkFirst)) = false) :
    s.upcoming = .host d rest d.time := by
  simp only [State.upcoming, h.inbox_eq, Time.later_eq, max_eq_right h.now_le, hbusy, hblink]

theorem upcoming_busy (hb : s.ctl.busyDeadline = some d.time) (hfirst : d.busyFirst = true)
    (hblink : dueBefore s.ctl.blinkDeadline d.time (decide (0 < d.blinkFirst)) = false) :
    s.upcoming = .timer .busy d.time := by
  have hbusy : s.busyDue d.time d.busyFirst = true := by simp [State.busyDue, hb, hfirst, dueBefore]
  simp only [State.upcoming, h.inbox_eq, Time.later_eq, max_eq_right h.now_le, hbusy, hblink, hb, Option.getD_some]

theorem upcoming_blink (hk : s.ctl.blinkDeadline = d.time) (hcount : 0 < d.blinkFirst)
    (hbusy : s.busyDue d.time d.busyFirst = false) : s.upcoming = .timer .blink d.time := by
  have hblink : dueBefore d.time d.time (decide (0 < d.blinkFirst)) = true := by simp [dueBefore, hcount]
  simp only [State.upcoming, h.inbox_eq, Time.later_eq, max_eq_right h.now_le, hbusy, hk, hblink]

theorem step_event (hbusy : s.busyDue d.time d.busyFirst = false)
    (hblink : dueBefore s.ctl.blinkDeadline d.time (decide (0 < d.blinkFirst)) = false) :
    step s = deliver d.event { s with now := d.time, inbox := rest, reply := none } :=
  step_host h.cfg_ok (h.upcoming_event hbusy hblink)

/-- The expiry leaves no busy deadline, so the event is next. -/
theorem step_busy_then_event (hb : s.ctl.busyDeadline = some d.time) (hfirst : d.busyFirst = true)
    (hblink : dueBefore s.ctl.blinkDeadline d.time (decide (0 < d.blinkFirst)) = false) :
    ∃ t : State, step s = .next t ∧ t.ctl.busy = false ∧ t.now = d.time ∧
      step t = deliver d.event { t with now := d.time, inbox := rest, reply := none } := by
  refine ⟨_, step_timer h.cfg_ok (h.upcoming_busy hb hfirst hblink), rfl, rfl, ?_⟩
  exact step_event ⟨h.cfg_ok, h.inbox_eq, le_rfl⟩ rfl hblink

/-- The firing takes one off the count. The blink deadline it leaves is due before the event only where T_BLINK is 0 and
the count is not yet down. -/
theorem step_blink_then_event (hk : s.ctl.blinkDeadline = d.time) {n : Nat} (hn : d.blinkFirst = n + 1)
    (hbusy : s.busyDue d.time d.busyFirst = false) :
    ∃ t : State, step s = .next t ∧ t.now = d.time ∧
      t.ctl = { s.ctl with
        blinkPhase := !s.ctl.blinkPhase, blinkDeadline := s.ctl.blinkDeadline + s.cfg.tBlink } ∧
      t.inbox = { d with blinkFirst := n } :: rest ∧
      (n = 0 ∨ 0 < s.cfg.tBlink →
        step t = deliver d.event { t with now := d.time, inbox := rest, reply := none }) := by
  have hinbox : s.inboxAfter .blink d.time = { d with blinkFirst := n } :: rest := by
    rw [inboxAfter_blink_cons h.inbox_eq, max_eq_right h.now_le, if_pos rfl, hn, Nat.add_sub_cancel]
  have hfire := step_timer h.cfg_ok (h.upcoming_blink hk (hn ▸ n.succ_pos) hbusy)
  rw [hinbox, fire_blink] at hfire
  refine ⟨_, hfire, rfl, rfl, rfl, fun hor => ?_⟩
  refine step_event (d := { d with blinkFirst := n }) ⟨h.cfg_ok, rfl, le_rfl⟩ hbusy (blinkDue_eq_false ?_)
  show d.time < s.ctl.blinkDeadline + s.cfg.tBlink ∨ d.time = s.ctl.blinkDeadline + s.cfg.tBlink ∧ n = 0
  rw [hk]
  have hperiod := (Config.check_none_iff.1 h.cfg_ok).tBlink_nonneg
  rcases hperiod.lt_or_eq with hpos | hzero
  · exact .inl (lt_add_of_pos_right _ hpos)
  · exact .inr ⟨by rw [← hzero, add_zero], hor.resolve_right hzero.not_lt⟩

end State.Awaits

/-- Settles O41: where the delivery puts no firing of the timer first the event is next, and where it does the firing is,
and then the event; the premises say that the other timer is not due before the event. -/
theorem simultaneousOrderIsTheSchedulersChoice : Obligations.SimultaneousOrderIsTheSchedulersChoice := by
  refine fun s d rest hi hbox => ⟨fun hb hlater => ?busy, fun hk hlater => ?blink⟩
  case busy =>
    have h : s.Awaits d rest := ⟨hi.cfg_ok, hbox, hi.busy_ahead _ hb⟩
    have hblink := blinkDue_eq_false hlater
    refine ⟨fun hfirst => h.step_event (busyDue_eq_false fun b hb' => ?_) hblink,
      fun hfirst => h.step_busy_then_event hb hfirst hblink⟩
    exact .inr ⟨Option.some.inj (hb.symm.trans hb'), hfirst⟩
  case blink =>
    have h : s.Awaits d rest := ⟨hi.cfg_ok, hbox, hk ▸ hi.blink_ahead⟩
    have hbusy := busyDue_eq_false hlater
    exact ⟨fun hnone => h.step_event hbusy (blinkDue_eq_false (.inr ⟨hk.symm, hnone⟩)),
      fun n hn => h.step_blink_then_event hk hn hbusy⟩

end Sys2Proof.Machine
end

section
/-! PROOFS. The configuration check at construction (rules R5, R131). -/

namespace Sys2Proof

theorem Config.geometrySupported_iff {c : Config} :
    c.geometrySupported = true ↔ c.placementSupplied = true ∨ (1 ≤ c.physicalLines ∧ c.physicalLines ≤ 4) := by
  simp [Config.geometrySupported]

theorem Config.check_of_geometry_unsupported {c : Config} (h : c.geometrySupported = false) :
    c.check = some (.unsupportedGeometry c.physicalLines) := by
  simp [Config.check, h]

end Sys2Proof

namespace Sys2Proof.Machine

theorem powerOn_of_check_none {c : Config} (h : c.check = none) (t : Time) :
    State.powerOn c t = .next (State.initial c t) := by
  simp only [State.powerOn, h]

theorem powerOn_of_check_some {c : Config} {e : ConfigError} (h : c.check = some e) (t : Time) :
    State.powerOn c t = .refused (.badConfiguration e) := by
  simp only [State.powerOn, h]

theorem step_of_check_some {s : State} {e : ConfigError} (h : s.cfg.check = some e) :
    step s = .refused (.badConfiguration e) := by
  simp only [step, h]

/-- Settles O44: power-on and the step both begin with the configuration check, whose first test is the geometry, and
the premises of the second part are its tests one by one. -/
theorem unsupportedGeometryIsRefused : Obligations.UnsupportedGeometryIsRefused := by
  refine fun cfg t => ⟨fun hlines hplace => ?refused, fun hgeo hf hs hm hl hb hdd hcg hr0 hr2 hr hr' => ?built⟩
  case refused =>
    have hgeo : cfg.geometrySupported = false := by
      rw [← Bool.not_eq_true, Config.geometrySupported_iff, hplace]
      simp only [Bool.false_eq_true, false_or]
      omega
    have hcheck := Config.check_of_geometry_unsupported hgeo
    refine ⟨powerOn_of_check_some hcheck t, by simp [geometryDiag, hgeo], ?_⟩
    rintro s rfl
    exact step_of_check_some hcheck
  case built =>
    refine powerOn_of_check_none (Config.check_none_iff.2 ?_) t
    exact
      { timingFactor_pos := hf, tShort_nonneg := hs, tMedium_nonneg := hm, tLong_nonneg := hl, tBlink_nonneg := hb
        geometry := Config.geometrySupported_iff.2 hgeo
        rams := by simp [Config.ramsSuffice, hdd, hcg]
        ring := by simp [Config.ringSupported, hr0, hr2, hr, hr'] }

end Sys2Proof.Machine
end

section
/-! PROOFS. No event fails (rule R127). The one fault of the model is a data access where AC names no cell, and the
invariant, which the multiplexer keeps, gives every AC a cell. -/

namespace Sys2Proof.Machine

theorem transact_completes {s : State} (hi : s.Inv) (rs rw : Bool) (db : Byte) :
    ∃ t, transact rs rw db s = .next t := by
  have hstate := multiplex_inv rs rw db s hi
  unfold transact
  cases hm : multiplex rs rw db s with
  | completes i u =>
    rw [hm] at hstate
    exact exec_completes hstate.cellExists i
  | ends u => exact ⟨u, rfl⟩

theorem latch_completes {s : State} (hi : s.Inv) (e : Bool) : ∃ t, latch e s = .next t := by
  obtain ⟨r, hread⟩ := transact_completes hi s.ctl.rsIn true 0x00
  obtain ⟨w, hwrite⟩ := transact_completes hi s.ctl.rsIn false s.ctl.dbIn
  unfold latch
  rw [hread, hwrite]
  split
  · split <;> exact ⟨_, rfl⟩
  · split <;> exact ⟨_, rfl⟩
  · exact ⟨_, rfl⟩
  · exact ⟨_, rfl⟩

theorem deliver_completes {s : State} (hi : s.Inv) (e : HostEvent) : ∃ t, deliver e s = .next t := by
  cases e with
  | write rs v => exact transact_completes hi rs false v
  | read rs => exact transact_completes hi rs true 0x00
  | latch e => exact latch_completes hi e
  | setRegisterSelect | setReadWrite | setDataBus | getDataBus | reset | isBusy | render => exact ⟨_, rfl⟩

theorem step_completes {s : State} (hi : s.Inv) : ∃ t, step s = .next t := by
  obtain ⟨hnow, hbusy, hblink⟩ := hi.upcoming_time
  cases hu : s.upcoming with
  | timer k u => exact ⟨_, step_timer hi.cfg_ok hu⟩
  | host d rest u =>
    rw [hu] at hnow hbusy hblink
    rw [step_host hi.cfg_ok hu]
    exact deliver_completes (hi.advance hnow hbusy hblink rest none) d.event

/-- Settles O54: the step completes, and what a query answers is read off its delivery. -/
theorem noEventFails : Obligations.NoEventFails := by
  intro s hi
  obtain ⟨t, ht⟩ := step_completes hi
  refine ⟨t, ht, fun d rest u hu => ?_⟩
  rw [step_host hi.cfg_ok hu] at ht
  refine ⟨fun rs he => ?read, fun he => ?getDataBus, fun he => ?isBusy, fun he => ?render⟩ <;> rw [he] at ht
  case read => exact transact_read_answers ht
  case getDataBus => cases ht; exact ⟨_, rfl⟩
  case isBusy => cases ht; rfl
  case render => cases ht; exact ⟨_, rfl⟩

end Sys2Proof.Machine
end

section
/-! PROOFS. Reset and the blink phase (rules R145, R160). The half-period is told by the parameters, the clock and
the two blink elements: no operation or transaction touches them, time moves no further than the blink deadline, and the
firing at that deadline opens the next half-period. -/

namespace Sys2Proof.Machine

/-- Settles O43: both RAMs start with nothing listed, and the two deadlines are sums in the library's arithmetic. -/
theorem resetEventSetsEveryElement : Obligations.ResetEventSetsEveryElement := by
  refine fun s => ⟨_, rfl, fun _ => rfl, fun _ => rfl, ?_⟩
  rw [← deadline_eq_busyUntil, ← Time.plus_eq]
  rfl

/-- A half-period starts with a reset (rules R145, R160). -/
theorem inBlinkHalf_of_atReset {s : State} (hc : s.cfg.check = none) (h : s.ctl = Controller.atReset s.cfg s.now) :
    s.InBlinkHalf s.now 0 := by
  have hphase : s.ctl.blinkPhase = false := by rw [h]; rfl
  have hdeadline : s.ctl.blinkDeadline = s.now + s.cfg.tBlink := by rw [h, ← Time.plus_eq]; rfl
  have hperiod := (Config.check_none_iff.1 hc).tBlink_nonneg
  refine ⟨hphase, ?_, ?_, ?_⟩
  · simpa using hdeadline
  · simp
  · rw [hdeadline]; exact le_add_of_nonneg_right hperiod

namespace State.InBlinkHalf

variable {s t : State} {t0 : Time} {k : Nat} (hs : s.InBlinkHalf t0 k)
include hs

/-- No operation touches the blink timer. -/
theorem exec {i : Instr} (h : exec i s = .next t) : t.InBlinkHalf t0 k := by
  refine exec_next_elim (motive := fun _ t => t.InBlinkHalf t0 k) ?null ?clear ?home ?entry ?display ?shift ?move
    ?rejected ?accepted ?cgaddr ?ddaddr ?status8 ?statusHigh ?statusLow ?dropWrite ?write ?dropRead ?read h
  case write =>
    intro v _ _
    simp only [Controller.storeData_eq]
    exact hs
  case read =>
    intro _ _
    exact loadData_elim (motive := fun t => t.InBlinkHalf t0 k) (fun _ => hs) (fun _ _ => hs) (fun _ _ => hs)
  all_goals intros; exact hs

theorem deliver {e : HostEvent} (hr : e ≠ .reset) (h : deliver e s = .next t) : t.InBlinkHalf t0 k :=
  deliver_keeps (P := fun s => s.InBlinkHalf t0 k) (fun _ _ _ _ _ _ _ _ _ hu hx => hu.exec hx)
    (multiplex_keeps (fun _ _ _ _ _ _ hs _ => hs) (fun _ _ _ hs => hs) (fun _ _ hs => hs))
    (fun _ _ _ _ _ _ hs => hs) (fun _ _ hs => hs) (fun he => absurd he hr) hs h

/-- Time moves on within the half-period (rule R141). -/
theorem advance {u : Time} (hu : s.now ≤ u) (hk : u ≤ s.ctl.blinkDeadline) (inbox : List Delivery) (r : Option Reply) :
    State.InBlinkHalf { s with now := u, inbox := inbox, reply := r } t0 k := by
  obtain ⟨hphase, hdeadline, hstart, -⟩ := hs
  exact ⟨hphase, hdeadline, hstart.trans hu, hk⟩

/-- The firing at the blink deadline opens the next half-period (rule R140). -/
theorem fire_blink (hperiod : 0 ≤ s.cfg.tBlink) (hnow : s.now = s.ctl.blinkDeadline) :
    (fire .blink s).InBlinkHalf t0 (k + 1) := by
  obtain ⟨hphase, hdeadline, -, -⟩ := hs
  have hparity : (!decide (k % 2 = 1)) = decide ((k + 1) % 2 = 1) := by
    rw [← decide_not]
    exact decide_eq_decide.2 (by omega)
  rw [Machine.fire_blink]
  refine ⟨?phase, ?deadline, ?start, ?ahead⟩
  case phase => exact (congrArg not hphase).trans hparity
  case deadline =>
    show s.ctl.blinkDeadline + s.cfg.tBlink = t0 + (((k + 1 : Nat) : Rat) + 1) * s.cfg.tBlink
    rw [hdeadline]
    push_cast
    ring
  case start =>
    show t0 + ((k + 1 : Nat) : Rat) * s.cfg.tBlink ≤ s.now
    rw [hnow, hdeadline]
    push_cast
    exact le_rfl
  case ahead =>
    show s.now ≤ s.ctl.blinkDeadline + s.cfg.tBlink
    rw [hnow]
    exact le_add_of_nonneg_right hperiod

/-- A step that is no reset stays in the half-period, or is the blink firing at its end. -/
theorem step (hi : s.Inv) (hr : s.nextIsReset = false) (h : step s = .next t) :
    t.InBlinkHalf t0 k ∨ (t.InBlinkHalf t0 (k + 1) ∧ t.now = s.ctl.blinkDeadline) := by
  obtain ⟨hnow, -, hblink⟩ := hi.upcoming_time
  obtain ⟨-, ⟨j, u, hu, rfl⟩ | ⟨d, rest, u, hu, hd⟩⟩ := step_next h <;> rw [hu] at hnow hblink
  · have hadvanced := hs.advance hnow hblink (s.inboxAfter j u) none
    cases j with
    | busy => exact .inl hadvanced
    | blink =>
      have hdue : u = s.ctl.blinkDeadline := (Option.some.inj (deadline_of_upcoming hu)).symm
      exact .inr ⟨hadvanced.fire_blink hi.buildable.tBlink_nonneg hdue, hdue⟩
  · have hevent : d.event ≠ .reset := by simpa [State.nextIsReset, hu] using hr
    exact .inl ((hs.advance hnow hblink rest none).deliver hevent hd)

end State.InBlinkHalf

/-- Settles O42: a reset starts half-period 0, at power-on as in mid-run, and every other step keeps the half-period or
fires the blink timer at its end. -/
theorem blinkPhaseAlternatesEveryPeriod : Obligations.BlinkPhaseAlternatesEveryPeriod := by
  refine ⟨fun _ _ hc => inBlinkHalf_of_atReset hc rfl, fun s t hr h => ?reset, fun s t t0 k hi hs hr h => ?step⟩
  case reset =>
    obtain ⟨hcheck, -⟩ := step_next h
    obtain ⟨hcfg, -⟩ := step_logsAtMostOne h
    exact inBlinkHalf_of_atReset (hcfg ▸ hcheck) (step_reset h hr)
  case step =>
    have ⟨_, hdeadline, _, _⟩ := hs
    rw [← hdeadline]
    exact hs.step hi hr h

end Sys2Proof.Machine
end
